-- ==== Sys2Proof/Word.lean ====
section
/-! DEFINITION. The word types of the HFC: bytes, operand words, command words, register widths (00_scope R7, R9, R10). -/
namespace Sys2Proof

/-- A byte of any of the three spaces `IN`, `OUT`, `BUF` (20_memory R60), and the width of `FLAGS`, `PAD`, `WEIGHT`. -/
abbrev Byte := BitVec 8

/-- A 32-bit word: an operand port (30_encoding R120) or the priority word (30_encoding R108). -/
abbrev Word := BitVec 32

/-- A command word `{op, a0, a1, a2}` of format CMD (30_encoding R120). -/
abbrev CmdWord := BitVec 104

/-- The declared payload length `LEN`, 24 bits (10_state R24). -/
abbrev Len := BitVec 24

/-- The stream identifier `SID`, `SID_W` = 31 bits (10_state R25). -/
abbrev Sid := BitVec 31

/-- The stream dependency `SDEP`, 31 bits (10_state R27). -/
abbrev Sdep := BitVec 31

/-- A slice: the immutable list of the bytes it denotes (20_memory R63). -/
abbrev Slice := List Byte

/-- The priority group, written and read together (10_state R27): exclusive bit, stream dependency, weight. -/
structure Prio where
  excl : Bool
  sdep : Sdep
  weight : Byte
  deriving DecidableEq, Repr

/-- `LEN_MAX` = 2^24 - 1 (00_scope R7). -/
abbrev lenMax : Nat := 16777215

end Sys2Proof
end

