-- ==== Sys2Proof/Syntax.lean ====
section
/-! DEFINITION. The rows of spec/opcode_table.json as one inductive, and what stands on the ports before it is decoded. -/
namespace Sys2Proof

/-- One constructor per row of the opcode table. The first 22 are the commands (30_encoding R121), an operand being the
raw 32-bit operand word. The last six are the table's wire rows, which are no commands (45 R200): bytes that the stream
environment delivers on `IN` (log 15), and the flags byte the host supplies (log 16). -/
inductive Instr where
  /-- NEW (44 R180). -/
  | new
  /-- SETFLAGS `a0` (44 R181). -/
  | setflags (f : Word)
  /-- SETSID `a0` (44 R182). -/
  | setsid (s : Word)
  /-- SETPAD `a0` (44 R183). -/
  | setpad (n : Word)
  /-- SETPRIO `a0`, `a1`, `a2`: stream dependency, exclusive, weight (44 R184). -/
  | setprio (d e g : Word)
  /-- SETBLOCKS `blk`: the slice list of the descriptor port (44 R185). -/
  | setblocks (blocks : List Slice)
  /-- GETTYPE (44 R186). -/
  | gettype
  /-- GETFLAGS (44 R187). -/
  | getflags
  /-- GETLEN (44 R188). -/
  | getlen
  /-- GETSID (44 R189). -/
  | getsid
  /-- GETPAD (44 R190). -/
  | getpad
  /-- GETPRIO (44 R191). -/
  | getprio
  /-- GETHLEN (44 R192). -/
  | gethlen
  /-- GETBLOCKS (44 R193). -/
  | getblocks
  /-- ISPADDED (43 R172). -/
  | ispadded
  /-- HASPRIO (43 R173). -/
  | hasprio
  /-- ENDHDRS (43 R171). -/
  | endhdrs
  /-- FLAGNAME `a0` (43 R170). -/
  | flagname (b : Word)
  /-- GETSTATUS (44 R194). -/
  | getstatus
  /-- DECODE `a0`, `a1`, `a2`: flags, declared length, stream identifier (40 R140). -/
  | decode (f l s : Word)
  /-- COMPLEN (41 R150). -/
  | complen
  /-- ENCODE (42 R160). -/
  | encode
  /-- HEADERS.N: a payload of format N, under the flags byte that selects it (30 R102). -/
  | headersN (flags : Byte) (fragment : List Byte)
  /-- HEADERS.P: a payload of format P (30 R103). -/
  | headersP (flags : Byte) (pad : Byte) (fragment padding : List Byte)
  /-- HEADERS.Q: a payload of format Q (30 R104). -/
  | headersQ (flags : Byte) (excl : Bool) (sdep : Sdep) (weight : Byte) (fragment : List Byte)
  /-- HEADERS.PQ: a payload of format PQ (30 R105). -/
  | headersPQ (flags : Byte) (pad : Byte) (excl : Bool) (sdep : Sdep) (weight : Byte) (fragment padding : List Byte)
  /-- PRIORITY_WORD: the 32-bit word of the priority block (30 R108). -/
  | priorityWord (excl : Bool) (sdep : Sdep)
  /-- FLAGS_BYTE: the flags byte, the host's operand (10 R22). -/
  | flagsByte (f : Byte)
  deriving DecidableEq, Repr

/-- What stands on a port before it is decoded: a command word with its descriptor port (30 R120), a payload on the wire
with the flags byte that selects its layout (30 R101), a 32-bit word on the wire (30 R108), or a flags byte (10 R22).
The last three carry the table's wire rows (log 17). -/
inductive Raw where
  | command (word : CmdWord) (blk : List Slice)
  | payload (flags : Byte) (bytes : List Byte)
  | wireWord (w : Word)
  | byte (f : Byte)
  deriving DecidableEq, Repr

/-- The rows that the stream environment delivers on `IN`; every other constructor is the host's (00_scope R6). -/
def Instr.isWire : Instr → Bool
  | .headersN .. | .headersP .. | .headersQ .. | .headersPQ .. | .priorityWord .. => true
  | .new | .setflags _ | .setsid _ | .setpad _ | .setprio .. | .setblocks _ | .gettype | .getflags | .getlen | .getsid
  | .getpad | .getprio | .gethlen | .getblocks | .ispadded | .hasprio | .endhdrs | .flagname _ | .getstatus
  | .decode .. | .complen | .encode | .flagsByte _ => false

end Sys2Proof
end

