-- ==== Sys2Proof/WellFormed.lean ====
section
/-! DEFINITION. When a term of Instr stands for a row of the table: every command does (operands are range-checked when the
command runs, 30_encoding R127); a payload must fit its layout (30_encoding R101 to R105). -/
namespace Sys2Proof

/-- The mask of bits 3 and 5 of `FLAGS`, which alone select the layout (30_encoding R101). -/
abbrev layoutMask : Byte := 0x28#8

/-- Does the term stand for its row: the flags byte selects the layout, the padding has the length the Pad Length byte
says, the payload is no longer than a 24-bit `LEN` can declare. -/
def Instr.wellFormed : Instr → Bool
  | .headersN flags fragment => flags &&& layoutMask == 0x00#8 && decide (fragment.length ≤ lenMax)
  | .headersP flags pad fragment padding =>
    flags &&& layoutMask == 0x08#8 && padding.length == pad.toNat
      && decide (1 + fragment.length + padding.length ≤ lenMax)
  | .headersQ flags _ _ _ fragment => flags &&& layoutMask == 0x20#8 && decide (5 + fragment.length ≤ lenMax)
  | .headersPQ flags pad _ _ _ fragment padding =>
    flags &&& layoutMask == 0x28#8 && padding.length == pad.toNat
      && decide (6 + fragment.length + padding.length ≤ lenMax)
  | .new | .setflags _ | .setsid _ | .setpad _ | .setprio .. | .setblocks _ | .gettype | .getflags | .getlen | .getsid
  | .getpad | .getprio | .gethlen | .getblocks | .ispadded | .hasprio | .endhdrs | .flagname _ | .getstatus
  | .decode .. | .complen | .encode | .priorityWord .. | .flagsByte _ => true

abbrev WellFormed (i : Instr) : Prop := i.wellFormed = true

end Sys2Proof
end

