-- ==== Sys2Proof/Decode.lean ====
section
/-! DEFINITION. The decoder, total and rejecting by name, and after it the encoder (30_encoding R101 to R110, R120 to R122). -/
namespace Sys2Proof

/-- Why the decoder rejects what stands on a port. -/
inductive Reject where
  /-- The opcode is not in the map: ContractViolation(ILLEGAL_CMD) (30_encoding R122). -/
  | illegalCmd (op : Byte)
  /-- A payload too short for its layout's fields or its Pad Length, or longer than `LEN_MAX`: no row (30_encoding R102 to R105). -/
  | noLayout (flags : Byte)
  deriving DecidableEq, Repr

/-! ### Fields of the 104-bit command word (30_encoding R120) -/

/-- `op`, bits 103 to 96. -/
def opField (w : CmdWord) : Byte := w.extractLsb' 96 8
/-- `a0`, bits 95 to 64. -/
def a0Field (w : CmdWord) : Word := w.extractLsb' 64 32
/-- `a1`, bits 63 to 32. -/
def a1Field (w : CmdWord) : Word := w.extractLsb' 32 32
/-- `a2`, bits 31 to 0. -/
def a2Field (w : CmdWord) : Word := w.extractLsb' 0 32

/-- The word `{op, a0, a1, a2}`. -/
def cmdWord (op : Byte) (a0 a1 a2 : Word) : CmdWord := op ++ a0 ++ a1 ++ a2

/-! ### The priority word (30_encoding R108 to R110, 20_memory R66, R72) -/

/-- `Unpack(w)`: `EXCL = w[31]`, `SDEP = w[30:0]` (30_encoding R109). -/
def unpack (w : Word) : Bool × Sdep := (w.getLsbD 31, w.extractLsb' 0 31)

/-- `Pack(e, d)` with `PACK_MODE = OR`: `(e << 31) | d` (30_encoding R110). -/
def packOr (e : Bool) (d : Sdep) : Word := ((BitVec.ofBool e).setWidth 32 <<< 31) ||| d.setWidth 32

/-- The four bytes of a word, most significant first (20_memory R72). -/
def beBytes (w : Word) : List Byte :=
  [w.extractLsb' 24 8, w.extractLsb' 16 8, w.extractLsb' 8 8, w.extractLsb' 0 8]

/-- The word of four bytes, the first off the wire most significant (20_memory R66). -/
def beWord (b0 b1 b2 b3 : Byte) : Word := b0 ++ b1 ++ b2 ++ b3

/-! ### Decoding -/

/-- A row of the opcode map: the opcode and the instruction its operands make. -/
structure OpRow where
  op : Byte
  build : Word → Word → Word → List Slice → Instr

/-- The opcode map (30_encoding R121). -/
def opcodeMap : List OpRow :=
  [ ⟨0x00#8, fun _ _ _ _ => .new⟩,
    ⟨0x01#8, fun a0 _ _ _ => .setflags a0⟩,
    ⟨0x02#8, fun a0 _ _ _ => .setsid a0⟩,
    ⟨0x03#8, fun a0 _ _ _ => .setpad a0⟩,
    ⟨0x04#8, fun a0 a1 a2 _ => .setprio a0 a1 a2⟩,
    ⟨0x05#8, fun _ _ _ blk => .setblocks blk⟩,
    ⟨0x10#8, fun _ _ _ _ => .gettype⟩,
    ⟨0x11#8, fun _ _ _ _ => .getflags⟩,
    ⟨0x12#8, fun _ _ _ _ => .getlen⟩,
    ⟨0x13#8, fun _ _ _ _ => .getsid⟩,
    ⟨0x14#8, fun _ _ _ _ => .getpad⟩,
    ⟨0x15#8, fun _ _ _ _ => .getprio⟩,
    ⟨0x16#8, fun _ _ _ _ => .gethlen⟩,
    ⟨0x17#8, fun _ _ _ _ => .getblocks⟩,
    ⟨0x18#8, fun _ _ _ _ => .ispadded⟩,
    ⟨0x19#8, fun _ _ _ _ => .hasprio⟩,
    ⟨0x1A#8, fun _ _ _ _ => .endhdrs⟩,
    ⟨0x1B#8, fun a0 _ _ _ => .flagname a0⟩,
    ⟨0x1C#8, fun _ _ _ _ => .getstatus⟩,
    ⟨0x20#8, fun a0 a1 a2 _ => .decode a0 a1 a2⟩,
    ⟨0x21#8, fun _ _ _ _ => .complen⟩,
    ⟨0x22#8, fun _ _ _ _ => .encode⟩ ]

/-- A command word with its descriptor port. Operands the command does not use are ignored (30_encoding R120). -/
def decodeCommand (w : CmdWord) (blk : List Slice) : Except Reject Instr :=
  match opcodeMap.find? (fun r => r.op == opField w) with
  | some r => .ok (r.build (a0Field w) (a1Field w) (a2Field w) blk)
  | none => .error (.illegalCmd (opField w))

/-- The part of a payload after the fixed fields, split into fragment and padding of `pad` bytes (30_encoding R106). -/
def splitPadding (pad : Byte) (rest : List Byte) : List Byte × List Byte :=
  rest.splitAt (rest.length - pad.toNat)

/-- A payload of the length `L = bytes.length`, in the layout its flags byte selects (30_encoding R101 to R105). -/
def decodePayload (flags : Byte) (bytes : List Byte) : Except Reject Instr :=
  if lenMax < bytes.length then .error (.noLayout flags)
  else if flags &&& layoutMask = 0x00#8 then .ok (.headersN flags bytes)
  else if flags &&& layoutMask = 0x08#8 then
    match bytes with
    | p :: rest =>
      if p.toNat ≤ rest.length then .ok (.headersP flags p (splitPadding p rest).1 (splitPadding p rest).2)
      else .error (.noLayout flags)
    | [] => .error (.noLayout flags)
  else if flags &&& layoutMask = 0x20#8 then
    match bytes with
    | b0 :: b1 :: b2 :: b3 :: g :: rest =>
      .ok (.headersQ flags (unpack (beWord b0 b1 b2 b3)).1 (unpack (beWord b0 b1 b2 b3)).2 g rest)
    | _ => .error (.noLayout flags)
  else
    match bytes with
    | p :: b0 :: b1 :: b2 :: b3 :: g :: rest =>
      if p.toNat ≤ rest.length then
        .ok (.headersPQ flags p (unpack (beWord b0 b1 b2 b3)).1 (unpack (beWord b0 b1 b2 b3)).2 g
          (splitPadding p rest).1 (splitPadding p rest).2)
      else .error (.noLayout flags)
    | _ => .error (.noLayout flags)

/-- The decoder. -/
def decode : Raw → Except Reject Instr
  | .command w blk => decodeCommand w blk
  | .payload flags bytes => decodePayload flags bytes
  | .wireWord w => .ok (.priorityWord (unpack w).1 (unpack w).2)
  | .byte f => .ok (.flagsByte f)

/-! ### Encoding -/

/-- The opcode of a command (30_encoding R121); none for a wire row. -/
def opcodeOf : Instr → Option Byte
  | .new => some 0x00#8
  | .setflags _ => some 0x01#8
  | .setsid _ => some 0x02#8
  | .setpad _ => some 0x03#8
  | .setprio .. => some 0x04#8
  | .setblocks _ => some 0x05#8
  | .gettype => some 0x10#8
  | .getflags => some 0x11#8
  | .getlen => some 0x12#8
  | .getsid => some 0x13#8
  | .getpad => some 0x14#8
  | .getprio => some 0x15#8
  | .gethlen => some 0x16#8
  | .getblocks => some 0x17#8
  | .ispadded => some 0x18#8
  | .hasprio => some 0x19#8
  | .endhdrs => some 0x1A#8
  | .flagname _ => some 0x1B#8
  | .getstatus => some 0x1C#8
  | .decode .. => some 0x20#8
  | .complen => some 0x21#8
  | .encode => some 0x22#8
  | .headersN .. | .headersP .. | .headersQ .. | .headersPQ .. | .priorityWord .. | .flagsByte _ => none

/-- The bytes a wire row puts on the wire, in the order of its layout (30_encoding R100 to R108); none for the other rows. -/
def wireBytes : Instr → List Byte
  | .headersN _ fragment => fragment
  | .headersP _ pad fragment padding => pad :: (fragment ++ padding)
  | .headersQ _ e d g fragment => beBytes (packOr e d) ++ g :: fragment
  | .headersPQ _ pad e d g fragment padding => pad :: (beBytes (packOr e d) ++ g :: (fragment ++ padding))
  | .priorityWord e d => beBytes (packOr e d)
  | .new | .setflags _ | .setsid _ | .setpad _ | .setprio .. | .setblocks _ | .gettype | .getflags | .getlen | .getsid
  | .getpad | .getprio | .gethlen | .getblocks | .ispadded | .hasprio | .endhdrs | .flagname _ | .getstatus
  | .decode .. | .complen | .encode | .flagsByte _ => []

/-- The encoder: what stands on the port for an instruction, unused operands zero (30_encoding R120, R121). -/
def encode : Instr → Raw
  | .new => .command (cmdWord 0x00#8 0 0 0) []
  | .setflags f => .command (cmdWord 0x01#8 f 0 0) []
  | .setsid s => .command (cmdWord 0x02#8 s 0 0) []
  | .setpad n => .command (cmdWord 0x03#8 n 0 0) []
  | .setprio d e g => .command (cmdWord 0x04#8 d e g) []
  | .setblocks blocks => .command (cmdWord 0x05#8 0 0 0) blocks
  | .gettype => .command (cmdWord 0x10#8 0 0 0) []
  | .getflags => .command (cmdWord 0x11#8 0 0 0) []
  | .getlen => .command (cmdWord 0x12#8 0 0 0) []
  | .getsid => .command (cmdWord 0x13#8 0 0 0) []
  | .getpad => .command (cmdWord 0x14#8 0 0 0) []
  | .getprio => .command (cmdWord 0x15#8 0 0 0) []
  | .gethlen => .command (cmdWord 0x16#8 0 0 0) []
  | .getblocks => .command (cmdWord 0x17#8 0 0 0) []
  | .ispadded => .command (cmdWord 0x18#8 0 0 0) []
  | .hasprio => .command (cmdWord 0x19#8 0 0 0) []
  | .endhdrs => .command (cmdWord 0x1A#8 0 0 0) []
  | .flagname b => .command (cmdWord 0x1B#8 b 0 0) []
  | .getstatus => .command (cmdWord 0x1C#8 0 0 0) []
  | .decode f l s => .command (cmdWord 0x20#8 f l s) []
  | .complen => .command (cmdWord 0x21#8 0 0 0) []
  | .encode => .command (cmdWord 0x22#8 0 0 0) []
  | .headersN flags fragment => .payload flags (wireBytes (.headersN flags fragment))
  | .headersP flags pad fragment padding => .payload flags (wireBytes (.headersP flags pad fragment padding))
  | .headersQ flags e d g fragment => .payload flags (wireBytes (.headersQ flags e d g fragment))
  | .headersPQ flags pad e d g fragment padding =>
    .payload flags (wireBytes (.headersPQ flags pad e d g fragment padding))
  | .priorityWord e d => .wireWord (packOr e d)
  | .flagsByte f => .byte f

/-! ### The table's bit numbering -/

/-- What stands on a port for the bits `w` of a row of the table: 104 bits are a command word (an empty descriptor port),
32 bits a priority word, 8 bits a flags byte that selects a layout, over the six zero bytes that are enough for the fixed
fields of every layout. Log 17. -/
def rawOfTableWord (nbits w : Nat) : Raw :=
  if nbits ≤ 8 then .payload (BitVec.ofNat 8 w) (List.replicate 6 0#8)
  else if nbits ≤ 32 then .wireWord (BitVec.ofNat 32 w)
  else .command (BitVec.ofNat 104 w) []

/-- The instruction the decoder reads from the bits `w` of a row of the table. -/
def decodeTableWord (nbits w : Nat) : Option Instr :=
  match decode (rawOfTableWord nbits w) with
  | .ok i => some i
  | .error _ => none

end Sys2Proof
end

