-- ==== Sys2Proof/Config.lean ====
section
/-! DEFINITION. The open parameters of the spec (00_scope R7, 10_state R39) and the free values: opaque constants, no body. -/
namespace Sys2Proof

/-- A name the base frame's lookup answers with (43_flag_queries R170): `END_HEADERS`, or any other name, spelled as text. -/
inductive BaseName where
  | endHeaders
  | other (text : String)
  deriving DecidableEq, Repr, Inhabited

namespace Config

/-- The draw of `SID` at NEW and RESET, "any SID_W-bit value" (10_state R25, R43): the free value of draw `n`. Log 2. -/
opaque sidDraw : Nat → Sid

/-- `SliceSplit` (20_memory R67): the sizes at which draw `n` cuts a header block into slices. Log 4. -/
opaque sliceSizes : Nat → List Nat

/-- `FrameHeader(type, flags, length, sid)` (42_encode R166): total, to a list of bytes, otherwise open. Log 5. -/
opaque frameHeader : Byte → Byte → Len → Sid → List Byte

/-- `BaseFlagName` away from its one fixed point (43_flag_queries R170). Log 6. -/
opaque baseFlagNameOpen : Word → BaseName

/-- `FLAGS` after a DECODE that faulted on the stream, "any value" (40_decode R145). Log 26. -/
opaque freeFlags : Nat → Byte

/-- `LEN` after a DECODE that faulted on the stream (40_decode R145). Log 26. -/
opaque freeLen : Nat → Len

/-- `SID` after a DECODE that faulted on the stream (40_decode R145). Log 26. -/
opaque freeSid : Nat → Sid

/-- `PAD` after a DECODE that faulted on the stream (40_decode R145). Log 26. -/
opaque freePad : Nat → Byte

/-- `PRIO` after a DECODE that faulted on the stream (40_decode R145). Log 26. -/
opaque freePrio : Nat → Option Prio

/-- `HBLK` after a DECODE that faulted on the stream (40_decode R145). Log 26. -/
opaque freeBlocks : Nat → Option (List Slice)

end Config
end Sys2Proof
end

