-- ==== Sys2Proof/Machine/State.lean ====
section
/-! DEFINITION. The state of one HFC instance (10_state), what the outside world is about to do, and the reasons a step stops. -/
namespace Sys2Proof.Machine

/-- `PHASE`, the lifecycle phase of the frame (10_state R33); its numeric codes are `Phase.code`. -/
inductive Phase where
  | fresh
  | decoded
  | serialized
  | faulted
  deriving DecidableEq, Repr

/-- Sub-codes of TruncatedInput: the primitive that was short (60_exceptions R221). -/
inductive TruncatedSub where
  | padLength
  | priorityWord
  | weight
  | headerBlock
  | padding
  deriving DecidableEq, Repr

/-- Sub-codes of ContractViolation (60_exceptions R222). -/
inductive ContractSub where
  | lenStale
  | range
  | unsetField
  | badPhase
  | illegalCmd
  | rdPoisoned
  | lenOverflow
  deriving DecidableEq, Repr

/-- Sub-codes of MalformedFrame (60_exceptions R223). -/
inductive MalformedSub where
  | padLength
  | priority
  | padding
  deriving DecidableEq, Repr

/-- A fault of the HFC, kind and sub-code (60_exceptions R220): the outcome of a command, after which the machine goes on. -/
inductive Cause where
  | truncatedInput (sub : TruncatedSub)
  | contractViolation (sub : ContractSub)
  | malformedFrame (sub : MalformedSub)
  deriving DecidableEq, Repr

/-- The name FLAGNAME answers with (43_flag_queries R170): one of this frame's own, or the base frame's answer. -/
inductive FlagName where
  | endStream
  | padded
  | priority
  | base (name : BaseName)
  deriving DecidableEq, Repr

/-- The result value of `OK(v)`, by the command that returns it (30_encoding R121). -/
inductive Value where
  /-- No result: NEW, the setters, DECODE, ENCODE. -/
  | empty
  /-- GETTYPE. -/
  | typeTag (t : Byte)
  /-- GETFLAGS. -/
  | flags (f : Byte)
  /-- GETLEN: the length and the stale bit. -/
  | lenAndStale (n : Len) (stale : Bool)
  /-- GETSID. -/
  | sid (s : Sid)
  /-- GETPAD: the effective pad length. -/
  | pad (n : Byte)
  /-- GETPRIO: the effective priority, or none. -/
  | prio (p : Option Prio)
  /-- GETHLEN. -/
  | headerLength (n : Nat)
  /-- GETBLOCKS. -/
  | blocks (s : List Slice)
  /-- ISPADDED, HASPRIO, ENDHDRS. -/
  | boolean (b : Bool)
  /-- FLAGNAME. -/
  | name (n : FlagName)
  /-- GETSTATUS: PHASE, LENSTALE, FSR, FCAUSE. -/
  | status (phase : Phase) (stale : Bool) (fsr : BitVec 3) (fcause : Option Cause)
  /-- COMPLEN. -/
  | length (n : Len)
  deriving DecidableEq, Repr

/-- The response to a command (00_scope R8, 30_encoding R120). -/
inductive Response where
  | ok (v : Value)
  | fault (c : Cause)
  deriving DecidableEq, Repr

/-- A segment of the output stream: bytes the HFC produced, or an attached slice (10_state R38). -/
inductive Seg where
  | bytes (l : List Byte)
  | ref (s : Slice)
  deriving DecidableEq, Repr

/-- The input stream record (10_state R37): chunks not yet consumed, oldest first; closed; poisoned; bytes consumed. -/
structure Rd where
  buf : List (List Byte)
  closed : Bool
  poisoned : Bool
  pos : Nat
  deriving DecidableEq, Repr

/-- The output stream record (10_state R38): segments not yet drained, oldest first; bytes appended since RESET. -/
structure Wr where
  segs : List Seg
  pos : Nat
  deriving DecidableEq, Repr

/-- The parameter `PACK_MODE` (00_scope R7, 30_encoding R110, R111). -/
inductive PackMode where
  | or
  | shiftCompat
  deriving DecidableEq, Repr

/-- The operands of a DECODE that holds (40_decode R141): the only command that can be pending. -/
structure Held where
  f : Word
  l : Word
  s : Word
  deriving DecidableEq, Repr

/-- What can arrive at the instance (00_scope R6, 20_memory R85, 70_reset_and_hazards R260, R272). -/
inductive Input where
  /-- Something to decode: a command, or a wire row of the table. -/
  | raw (r : Raw)
  /-- The environment's `AppendChunk(c)`. -/
  | appendChunk (c : List Byte)
  /-- The environment's `Close`. -/
  | close
  /-- The environment's `Drain(k)`, in bytes. -/
  | drain (k : Nat)
  /-- The RESET input. -/
  | reset
  deriving DecidableEq, Repr

/-- The machine never stops with a fault: every fault the spec names is the outcome of a command, a next state with the
fault entry performed (60_exceptions R224, R226). So this type has no constructor, and nothing raises one. Log 22. -/
inductive Fault where
  deriving DecidableEq, Repr

/-- Why a step has no next state. -/
inductive Refusal where
  /-- Raised by `exec` for a row that has no meaning yet; safe (no claim about that row can be proved). -/
  | notModelled (mnemonic : String)
  /-- Raised when a command arrives while a DECODE holds: "a model has no step for it" (70_reset_and_hazards R266); safe. -/
  | commandWhilePending
  /-- Raised when bytes are delivered after `Close`: "no move in the model" (20_memory R85, 70 R272); safe. Log 12. -/
  | appendAfterClose
  /-- Raised by a `Close` of a stream that is closed: the environment may "`Close` once", and "what is not in the table is
  not modelled" (70_reset_and_hazards R272); safe. Log 13. -/
  | closeAfterClose
  /-- Raised by an `AppendChunk` of no bytes: a chunk is a non-empty list (20_memory R85); safe. Log 12. -/
  | emptyChunk
  /-- Raised when what arrives as a payload of a wire row fits no layout (30_encoding R102 to R105).
  DESIGN CHOICE (log 17): the spec forbids no delivery of bytes, but such bytes are no wire row; safe. -/
  | notALayout
  deriving DecidableEq, Repr

/-- The state of one instance (10_state R20). `TYPE` is hardwired and has no field (10_state R21, log 1): see `State.typeTag`. -/
structure State where
  /-- `FLAGS` (R22). -/
  flags : Byte
  /-- `LEN` (R24). -/
  len : Len
  /-- `SID` (R25). -/
  sid : Sid
  /-- `PAD`, the stored register, possibly stale (R26, R32). -/
  pad : Byte
  /-- `PRIO`, the stored group, possibly stale (R27, R28). -/
  prio : Option Prio
  /-- `HBLK` (R29). -/
  hblk : Option (List Slice)
  /-- `HLEN` (R30). -/
  hlen : Option Nat
  /-- `PHASE` (R33). -/
  phase : Phase
  /-- `LENSTALE` (R35). -/
  lenstale : Bool
  /-- `FSR` (R36): bit 0 `TRUNC`, bit 1 `CONTRACT`, bit 2 `MALFORMED`. -/
  fsr : BitVec 3
  /-- `FCAUSE` (R36). -/
  fcause : Option Cause
  /-- The input stream record (R37). -/
  rd : Rd
  /-- The output stream record (R38). -/
  wr : Wr
  /-- The pending command, a DECODE that holds (00_scope R8, 40_decode R141). -/
  held : Option Held
  /-- The response to the last command; none before the first and while one is pending (00_scope R8). Log 11. -/
  resp : Option Response
  /-- The parameter `PACK_MODE`, fixed for the machine; no step changes it (10_state R39, 70 R260). Log 7. -/
  packMode : PackMode
  /-- What will arrive, oldest first: the host's and the environment's schedule as data (00_scope R6). Log 8. -/
  inputs : List Input
  /-- The model's own counter of free draws (10_state R39). Log 3. -/
  draws : Nat
  deriving DecidableEq, Repr

/-- `TYPE`, hardwired to 1 (10_state R21). -/
def State.typeTag (_ : State) : Byte := 1#8

/-- The machine right after RESET (10_state R43): `SID` is draw 0, everything else as the table says. -/
def State.reset : State where
  flags := 0x00#8
  len := 0#24
  sid := Config.sidDraw 0
  pad := 0#8
  prio := none
  hblk := none
  hlen := none
  phase := .fresh
  lenstale := true
  fsr := 0b000#3
  fcause := none
  rd := { buf := [], closed := false, poisoned := false, pos := 0 }
  wr := { segs := [], pos := 0 }
  held := none
  resp := none
  packMode := .or
  inputs := []
  draws := 1

end Sys2Proof.Machine
end

