-- ==== Sys2Proof/Machine/Flags.lean ====
section
/-! DEFINITION. The flag predicates, the values they gate, the length formula and the codes of phases and faults. -/
namespace Sys2Proof.Machine

/-! ### The bits of `FLAGS` (00_scope R11, 10_state R22) -/

/-- `END_STREAM` is bit 0. -/
def flagEndStream (f : Byte) : Bool := f.getLsbD 0
/-- `END_HEADERS` is bit 2. -/
def flagEndHeaders (f : Byte) : Bool := f.getLsbD 2
/-- `PADDED` is bit 3. -/
def flagPadded (f : Byte) : Bool := f.getLsbD 3
/-- `PRIORITY` is bit 5. -/
def flagPriority (f : Byte) : Bool := f.getLsbD 5

/-! ### Values the flags gate -/

/-- `EffPad` (10_state R32). -/
def State.effPad (s : State) : Byte := if flagPadded s.flags then s.pad else 0#8

/-- The effective priority (10_state R28). -/
def State.effPrio (s : State) : Option Prio := if flagPriority s.flags then s.prio else none

/-- `Concat` of a sequence of slices (00_scope R13). -/
def concat (blocks : List Slice) : List Byte := blocks.flatten

/-- `Size` of a sequence of slices (00_scope R13). -/
def size (blocks : List Slice) : Nat := (concat blocks).length

/-- `(PADDED ? 1 : 0) + (PRIORITY ? 5 : 0)`, the bytes of the fixed optional fields (00_scope R14). -/
def overhead (flags : Byte) : Nat := (if flagPadded flags then 1 else 0) + (if flagPriority flags then 5 else 0)

/-- `ExpLen` (30_encoding R116), in the natural numbers. An `HLEN` that holds no value counts 0 here; COMPLEN, the one
reader, faults before it (log 25). -/
def State.expLen (s : State) : Nat :=
  (if flagPadded s.flags then 1 + s.pad.toNat else 0) + (if flagPriority s.flags then 5 else 0) + s.hlen.getD 0

/-! ### Names (43_flag_queries R170) -/

/-- `BaseFlagName`: `END_HEADERS` at 0x04, open elsewhere. -/
def baseFlagName (b : Word) : BaseName := if b = 0x04#32 then .endHeaders else Config.baseFlagNameOpen b

/-- The lookup of FLAGNAME, on the whole value of its operand. -/
def flagName (b : Word) : FlagName :=
  if b = 0x01#32 then .endStream
  else if b = 0x08#32 then .padded
  else if b = 0x20#32 then .priority
  else .base (baseFlagName b)

/-- The spelling of a name as text, the constructor's name in ASCII (43_flag_queries R170); of a name of the base that is
not `END_HEADERS`, whatever text the open parameter gives (log 6). -/
def FlagName.text : FlagName → String
  | .endStream => "END_STREAM"
  | .padded => "PADDED"
  | .priority => "PRIORITY"
  | .base .endHeaders => "END_HEADERS"
  | .base (.other text) => text

/-! ### Codes (10_state R33, 60_exceptions R220 to R223) -/

/-- The numeric code of a phase (10_state R33). -/
def Phase.code : Phase → BitVec 2
  | .fresh => 0
  | .decoded => 1
  | .serialized => 2
  | .faulted => 3

/-- The kind code of a fault (60_exceptions R220). -/
def Cause.kindCode : Cause → Nat
  | .truncatedInput _ => 1
  | .contractViolation _ => 2
  | .malformedFrame _ => 3

/-- The sub-code of a fault (60_exceptions R221 to R223). -/
def Cause.subCode : Cause → Nat
  | .truncatedInput .padLength => 1
  | .truncatedInput .priorityWord => 2
  | .truncatedInput .weight => 3
  | .truncatedInput .headerBlock => 4
  | .truncatedInput .padding => 5
  | .contractViolation .lenStale => 1
  | .contractViolation .range => 2
  | .contractViolation .unsetField => 3
  | .contractViolation .badPhase => 4
  | .contractViolation .illegalCmd => 5
  | .contractViolation .rdPoisoned => 6
  | .contractViolation .lenOverflow => 7
  | .malformedFrame .padLength => 1
  | .malformedFrame .priority => 2
  | .malformedFrame .padding => 3

/-- The bit of `FSR` a fault sets, bit `code - 1` (60_exceptions R224). -/
def Cause.fsrBit (c : Cause) : BitVec 3 := 1#3 <<< (c.kindCode - 1)

end Sys2Proof.Machine
end

