-- ==== Sys2Proof/Machine/Operands.lean ====
section
/-! DEFINITION. The operand ports: signed 32-bit integers, compared with the bounds of their register before any write
(30_encoding R120, R127). -/
namespace Sys2Proof.Machine

/-- Is the operand, read as a signed integer, in `0 .. hi`? -/
def inRange (hi : Nat) (a : Word) : Bool := decide (0 ≤ a.toInt ∧ a.toInt ≤ hi)

/-- `flags`, 0 to 255. -/
def flagsInRange (a : Word) : Bool := inRange 255 a
/-- `length`, 0 to 16777215. -/
def lengthInRange (a : Word) : Bool := inRange lenMax a
/-- A stream identifier, 0 to 2^31 - 1: only a negative operand is out of range. -/
def sidInRange (a : Word) : Bool := inRange 2147483647 a
/-- A pad length, 0 to 255. -/
def padInRange (a : Word) : Bool := inRange 255 a
/-- A stream dependency, 0 to 2^31 - 1. -/
def sdepInRange (a : Word) : Bool := inRange 2147483647 a
/-- The exclusive operand, 0 to 1. -/
def exclInRange (a : Word) : Bool := inRange 1 a
/-- A weight, 0 to 255. -/
def weightInRange (a : Word) : Bool := inRange 255 a

/-- `v[7:0]` of an operand. -/
def low8 (a : Word) : Byte := a.extractLsb' 0 8
/-- `v[23:0]` of an operand. -/
def low24 (a : Word) : Len := a.extractLsb' 0 24
/-- `v[30:0]` of an operand. -/
def low31 (a : Word) : BitVec 31 := a.extractLsb' 0 31
/-- `v[0]` of an operand. -/
def low1 (a : Word) : Bool := a.getLsbD 0

end Sys2Proof.Machine
end

