-- ==== Sys2Proof/Machine/Ops.lean ====
section
/-! DEFINITION. The named operations: the stream primitives (20_memory R64 to R74), packing (30_encoding R110, R111), the
response port, the one fault entry (60_exceptions R224), construction and RESET, and the environment's moves (20_memory R85). -/
namespace Sys2Proof.Machine

/-! ### The Byte Reader (20_memory R64 to R68) -/

/-- What a read primitive ends with: the value and the stream after it, short (closed), or hold (open). -/
inductive ReadResult (α : Type) where
  | done (a : α) (rd : Rd)
  | short
  | hold
  deriving DecidableEq, Repr

/-- The bytes available now, `Concat(rd.buf)` (10_state R37). -/
def Rd.avail (rd : Rd) : List Byte := rd.buf.flatten

/-- Remove `n` bytes from the front of a list of chunks: an emptied chunk is dropped, a partly consumed one keeps its rest. -/
def dropChunks : Nat → List (List Byte) → List (List Byte)
  | _, [] => []
  | n, c :: cs => if n = 0 then c :: cs else if c.length ≤ n then dropChunks (n - c.length) cs else c.drop n :: cs

/-- `MemRead(IN, n)` (20_memory R64). -/
def Rd.memRead (rd : Rd) (n : Nat) : ReadResult (List Byte) :=
  if n = 0 then .done [] rd
  else if n ≤ rd.avail.length then
    .done (rd.avail.take n) { rd with buf := dropChunks n rd.buf, pos := rd.pos + n }
  else if rd.closed then .short
  else .hold

/-- `RdU8()` (20_memory R65): the byte, unsigned. -/
def Rd.rdU8 (rd : Rd) : ReadResult Byte :=
  match rd.memRead 1 with
  | .done b rd' => .done (b.headD 0#8) rd'
  | .short => .short
  | .hold => .hold

/-- `RdU32BE()` (20_memory R66): four bytes in one read, the first most significant. -/
def Rd.rdU32BE (rd : Rd) : ReadResult Word :=
  match rd.memRead 4 with
  | .done b rd' => .done (beWord (b.getD 0 0#8) (b.getD 1 0#8) (b.getD 2 0#8) (b.getD 3 0#8)) rd'
  | .short => .short
  | .hold => .hold

/-- Cut a byte list at the given sizes, the rest as a last slice: every cut with `Concat = b` is of this form (20_memory R67). -/
def cut : List Nat → List Byte → List Slice
  | [], [] => []
  | [], b :: bs => [b :: bs]
  | n :: ns, b => b.take n :: cut ns (b.drop n)

/-- `RdSlices(n)` (20_memory R67), the slices cut at `sizes` (the parameter `SliceSplit`, log 4); of no bytes, the empty
sequence (40_decode R140 corner case (a), 91_not_in_source N22). -/
def Rd.rdSlices (rd : Rd) (sizes : List Nat) (n : Nat) : ReadResult (List Slice) :=
  match rd.memRead n with
  | .done b rd' => .done (if n = 0 then [] else cut sizes b) rd'
  | .short => .short
  | .hold => .hold

/-- `RdSkip(n)` (20_memory R68). -/
def Rd.rdSkip (rd : Rd) (n : Nat) : ReadResult Unit :=
  match rd.memRead n with
  | .done _ rd' => .done () rd'
  | .short => .short
  | .hold => .hold

/-! ### The Byte Writer (20_memory R69 to R74) -/

/-- The bytes of a segment. -/
def Seg.content : Seg → List Byte
  | .bytes l => l
  | .ref s => s

/-- `Concat(wr.segs)`, the observable output (10_state R38). -/
def Wr.content (wr : Wr) : List Byte := (wr.segs.map Seg.content).flatten

/-- `MemWrite(OUT, n, v)` with `n` the length of `v` (20_memory R69). -/
def Wr.memWrite (wr : Wr) (v : List Byte) : Wr :=
  match v with
  | [] => wr
  | b :: bs => { segs := wr.segs ++ [.bytes (b :: bs)], pos := wr.pos + (b :: bs).length }

/-- `PutU8(v)` (20_memory R70). -/
def Wr.putU8 (wr : Wr) (v : Byte) : Wr := wr.memWrite [v]

/-- `PutU32BE(v)` (20_memory R72). -/
def Wr.putU32BE (wr : Wr) (v : Word) : Wr := wr.memWrite (beBytes v)

/-- `PutSlice(s)` (20_memory R73). -/
def Wr.putSlice (wr : Wr) (s : Slice) : Wr := { segs := wr.segs ++ [.ref s], pos := wr.pos + s.length }

/-- `PutZeros(n)` (20_memory R74). -/
def Wr.putZeros (wr : Wr) (n : Nat) : Wr := wr.memWrite (List.replicate n 0x00#8)

/-- `PutSlice` for each slice, in order (42_encode R160 line 7). -/
def Wr.putSlices (wr : Wr) (blocks : List Slice) : Wr := blocks.foldl Wr.putSlice wr

/-! ### Packing the priority word (30_encoding R110, R111) -/

/-- `Pack(e, d)` in the given `PACK_MODE`. -/
def pack : PackMode → Bool → Sdep → Word
  | .or, e, d => packOr e d
  | .shiftCompat, false, d => d.setWidth 32
  | .shiftCompat, true, d => 1#32 <<< ((31 + d.toNat) % 32)

/-! ### The canonical form of the stream memories -/

/-- Every chunk is a non-empty list of bytes (10_state R37). -/
abbrev Rd.wf (rd : Rd) : Prop := ∀ c ∈ rd.buf, c ≠ []

/-- Every segment of bytes the HFC produced is non-empty (20_memory R69: a write of no bytes does nothing). -/
abbrev Wr.wf (wr : Wr) : Prop := ∀ g ∈ wr.segs, g ≠ .bytes []

/-- The canonical form of the two stream memories; the HFC has no addressable memory (20_memory R60, log 18). -/
abbrev Memory.wf (s : State) : Prop := s.rd.wf ∧ s.wr.wf

/-! ### Responses and the fault entry -/

/-- The command ends with `OK(v)` (00_scope R8). -/
def State.respond (s : State) (v : Value) : State := { s with resp := some (.ok v) }

/-- The fault entry (60_exceptions R224), as the last act of a command; the poisoning of the reader by lines 5 to 10 of
DECODE is `State.streamFault`. -/
def State.raise (s : State) (c : Cause) : State :=
  { s with
    fsr := s.fsr ||| c.fsrBit
    fcause := s.fcause.or (some c)
    phase := .faulted
    resp := some (.fault c) }

/-- A fault of lines 5 to 10 of DECODE (40_decode R145): consumed bytes stay consumed, the reader is poisoned, the frame
registers become unspecified (free values, log 26), then the fault entry. `HLEN` stays `Size(HBLK)`, "in every state"
(10_state R31). -/
def State.streamFault (s : State) (rd : Rd) (c : Cause) : State :=
  State.raise
    { s with
      rd := { rd with poisoned := true }
      flags := Config.freeFlags s.draws
      len := Config.freeLen s.draws
      sid := Config.freeSid s.draws
      pad := Config.freePad s.draws
      prio := Config.freePrio s.draws
      hblk := Config.freeBlocks s.draws
      hlen := (Config.freeBlocks s.draws).map size
      draws := s.draws + 1 }
    c

/-- `PhaseCheck(W)`: a command permitted in `FRESH` only (10_state R34). -/
def State.ifFresh (s : State) (body : State) : State :=
  if s.phase = .fresh then body else s.raise (.contractViolation .badPhase)

/-- `PhaseCheck(R)`: a command permitted in every phase but `FAULTED` (10_state R34). -/
def State.ifReadable (s : State) (body : State) : State :=
  if s.phase = .faulted then s.raise (.contractViolation .badPhase) else body

/-! ### Construction and RESET -/

/-- The frame NEW constructs (44_frame_fields R180). -/
def State.newFrame (s : State) : State :=
  { s with
    flags := 0x00#8
    len := 0#24
    lenstale := true
    sid := Config.sidDraw s.draws
    pad := 0#8
    prio := none
    hblk := none
    hlen := none
    phase := .fresh
    fcause := none
    draws := s.draws + 1 }

/-- The RESET input (70_reset_and_hazards R260): every row of 10_state R43, a fresh `SID` draw; the parameter and what is
still to arrive are not state of the instance and stay (log 21). -/
def State.resetInput (s : State) : State :=
  { State.reset with
    sid := Config.sidDraw s.draws
    packMode := s.packMode
    inputs := s.inputs
    draws := s.draws + 1 }

/-! ### The environment's moves (20_memory R85) -/

/-- Append bytes to the input stream; no bytes make no chunk (10_state R37). -/
def Rd.append (rd : Rd) (c : List Byte) : Rd :=
  match c with
  | [] => rd
  | b :: bs => { rd with buf := rd.buf ++ [b :: bs] }

/-- Deliver bytes on `IN`: only while it is open (20_memory R85). -/
def State.deliver (s : State) (c : List Byte) : Host.Outcome State Fault Refusal :=
  if s.rd.closed then .refused .appendAfterClose else .next { s with rd := s.rd.append c }

/-- `AppendChunk(c)`, for a non-empty byte list. -/
def State.appendChunk (s : State) (c : List Byte) : Host.Outcome State Fault Refusal :=
  match c with
  | [] => .refused .emptyChunk
  | b :: bs => s.deliver (b :: bs)

/-- `IN` is closed, irreversibly until RESET (20_memory R85). -/
def State.endInput (s : State) : State := { s with rd := { s.rd with closed := true } }

/-- `Close`: the environment may close once (70_reset_and_hazards R272), so there is no move on a closed stream (log 13). -/
def State.close (s : State) : Host.Outcome State Fault Refusal :=
  if s.rd.closed then .refused .closeAfterClose else .next s.endInput

/-- Remove the first `n` bytes of a segment. -/
def Seg.drop : Seg → Nat → Seg
  | .bytes l, n => .bytes (l.drop n)
  | .ref s, n => .ref (s.drop n)

/-- Remove `k` bytes from the front of the segments: whole segments, then the front of one (log 14). -/
def drainSegs : Nat → List Seg → List Seg
  | _, [] => []
  | k, g :: gs => if g.content.length ≤ k then drainSegs (k - g.content.length) gs else g.drop k :: gs

/-- `Drain(k)`: `wr.pos` does not change. -/
def State.drain (s : State) (k : Nat) : State := { s with wr := { s.wr with segs := drainSegs k s.wr.segs } }

end Sys2Proof.Machine
end

