-- ==== Sys2Proof/Machine/Construct.lean ====
section
/-! DEFINITION. NEW, the construction of a frame (44_frame_fields section 1). -/
namespace Sys2Proof.Machine

/-- NEW (44_frame_fields R180): permitted in every phase, no fault. -/
def execNew (s : State) : Host.Outcome State Fault Refusal := .next (s.newFrame.respond .empty)

end Sys2Proof.Machine
end

