-- ==== Sys2Proof/Machine/Deserialize.lean ====
section
/-! DEFINITION. DECODE, the flag-conditional demultiplexer (40_decode). -/
namespace Sys2Proof.Machine

/-- How a part of lines 4 to 10 of DECODE ends: a value and the stream after it; a fault, with the stream as the primitives
that completed left it (40_decode R145); or a hold (40_decode R141). -/
inductive Parse (α : Type) where
  | done (a : α) (rd : Rd)
  | fault (c : Cause) (rd : Rd)
  | hold
  deriving DecidableEq, Repr

/-- Do one part, then the next on what it leaves. -/
def Parse.andThen {α β : Type} (p : Parse α) (k : α → Rd → Parse β) : Parse β :=
  match p with
  | .done a rd => k a rd
  | .fault c rd => .fault c rd
  | .hold => .hold

/-- A read primitive, with the TruncatedInput sub-code of its "on short" (40_decode R140); a short primitive consumes nothing. -/
def Parse.ofRead {α : Type} (rd : Rd) (sub : TruncatedSub) (r : ReadResult α) : Parse α :=
  match r with
  | .done a rd' => .done a rd'
  | .short => .fault (.truncatedInput sub) rd
  | .hold => .hold

/-- Line 5: the Pad Length byte, and what remains of `rem`. -/
def parsePadLength (padded : Bool) (rem : Nat) (rd : Rd) : Parse (Byte × Nat) :=
  if padded then
    if rem < 1 then .fault (.malformedFrame .padLength) rd
    else (Parse.ofRead rd .padLength rd.rdU8).andThen fun p rd => .done (p, rem - 1) rd
  else .done (0#8, rem) rd

/-- Line 6: the priority block, and what remains of `rem`. -/
def parsePriority (priority : Bool) (rem : Nat) (rd : Rd) : Parse (Option Prio × Nat) :=
  if priority then
    if rem < 5 then .fault (.malformedFrame .priority) rd
    else
      (Parse.ofRead rd .priorityWord rd.rdU32BE).andThen fun w rd =>
        (Parse.ofRead rd .weight rd.rdU8).andThen fun g rd =>
          .done (some { excl := (unpack w).1, sdep := (unpack w).2, weight := g }, rem - 5) rd
  else .done (none, rem) rd

/-- Lines 7 to 10: the header block of `rem - p` bytes, then `p` bytes of padding, discarded. -/
def parseBlocks (sizes : List Nat) (p : Byte) (rem : Nat) (rd : Rd) : Parse (List Slice × Nat) :=
  if rem < p.toNat then .fault (.malformedFrame .padding) rd
  else
    (Parse.ofRead rd .headerBlock (rd.rdSlices sizes (rem - p.toNat))).andThen fun blocks rd =>
      (Parse.ofRead rd .padding (rd.rdSkip p.toNat)).andThen fun _ rd => .done (blocks, rem - p.toNat) rd

/-- What lines 4 to 10 read from the payload. -/
structure Payload where
  pad : Byte
  prio : Option Prio
  blocks : List Slice
  hlen : Nat
  deriving DecidableEq, Repr

/-- Lines 4 to 10 of DECODE (40_decode R140) on flags `f` and declared length `L`. -/
def parsePayload (sizes : List Nat) (f : Byte) (L : Nat) (rd : Rd) : Parse Payload :=
  (parsePadLength (flagPadded f) L rd).andThen fun pr rd =>
    (parsePriority (flagPriority f) pr.2 rd).andThen fun qr rd =>
      (parseBlocks sizes pr.1 qr.2 rd).andThen fun bh rd =>
        .done { pad := pr.1, prio := qr.1, blocks := bh.1, hlen := bh.2 } rd

/-- Line 3 of DECODE: the operands in the ranges of their registers. -/
def decodeOperandsInRange (f l i : Word) : Bool := flagsInRange f && lengthInRange l && sidInRange i

/-- Lines 4 to 11 of DECODE: the parse, and what its end does to the instance. A holding command changes nothing but that
it is pending and there is no response (40_decode R141). -/
def decodeBody (f l i : Word) (s : State) : State :=
  match parsePayload (Config.sliceSizes s.draws) (low8 f) (low24 l).toNat s.rd with
  | .hold => { s with held := some { f := f, l := l, s := i }, resp := none }
  | .fault c rd => s.streamFault rd c
  | .done p rd =>
    { s with
      flags := low8 f
      len := low24 l
      sid := low31 i
      pad := p.pad
      prio := p.prio
      hblk := some p.blocks
      hlen := some p.hlen
      lenstale := false
      phase := .decoded
      rd := rd
      draws := s.draws + 1 }.respond .empty

/-- DECODE (40_decode R140). -/
def execDecode (f l i : Word) (s : State) : Host.Outcome State Fault Refusal :=
  .next <| s.ifFresh <|
    if s.rd.poisoned then s.raise (.contractViolation .rdPoisoned)
    else if decodeOperandsInRange f l i then decodeBody f l i s
    else s.raise (.contractViolation .range)

end Sys2Proof.Machine
end

