-- ==== Sys2Proof/Machine/FlagQueries.lean ====
section
/-! DEFINITION. The flag queries (43_flag_queries); none of them changes a register. -/
namespace Sys2Proof.Machine

/-- ISPADDED (43_flag_queries R172). -/
def execIspadded (s : State) : Host.Outcome State Fault Refusal :=
  .next <| s.ifReadable <| s.respond (.boolean (flagPadded s.flags))

/-- HASPRIO (43_flag_queries R173): the flag, not whether the group holds a value. -/
def execHasprio (s : State) : Host.Outcome State Fault Refusal :=
  .next <| s.ifReadable <| s.respond (.boolean (flagPriority s.flags))

/-- ENDHDRS (43_flag_queries R171). -/
def execEndhdrs (s : State) : Host.Outcome State Fault Refusal :=
  .next <| s.ifReadable <| s.respond (.boolean (flagEndHeaders s.flags))

/-- FLAGNAME (43_flag_queries R170): a function of its operand, permitted in every phase, no fault. -/
def execFlagname (b : Word) (s : State) : Host.Outcome State Fault Refusal :=
  .next <| s.respond (.name (flagName b))

end Sys2Proof.Machine
end

