-- ==== Sys2Proof/Machine/Getters.lean ====
section
/-! DEFINITION. The getters and the status read (44_frame_fields sections 3 and 4); none of them writes a register. -/
namespace Sys2Proof.Machine

/-- GETTYPE (44_frame_fields R186). -/
def execGettype (s : State) : Host.Outcome State Fault Refusal :=
  .next <| s.ifReadable <| s.respond (.typeTag s.typeTag)

/-- GETFLAGS (44_frame_fields R187). -/
def execGetflags (s : State) : Host.Outcome State Fault Refusal :=
  .next <| s.ifReadable <| s.respond (.flags s.flags)

/-- GETLEN (44_frame_fields R188). -/
def execGetlen (s : State) : Host.Outcome State Fault Refusal :=
  .next <| s.ifReadable <| s.respond (.lenAndStale s.len s.lenstale)

/-- GETSID (44_frame_fields R189). -/
def execGetsid (s : State) : Host.Outcome State Fault Refusal :=
  .next <| s.ifReadable <| s.respond (.sid s.sid)

/-- GETPAD (44_frame_fields R190): the effective pad length. -/
def execGetpad (s : State) : Host.Outcome State Fault Refusal :=
  .next <| s.ifReadable <| s.respond (.pad s.effPad)

/-- GETPRIO (44_frame_fields R191): none when PRIORITY is unset, a fault when it is set and the group holds no value. -/
def execGetprio (s : State) : Host.Outcome State Fault Refusal :=
  .next <| s.ifReadable <|
    if flagPriority s.flags then
      match s.prio with
      | none => s.raise (.contractViolation .unsetField)
      | some p => s.respond (.prio (some p))
    else s.respond (.prio none)

/-- GETHLEN (44_frame_fields R192). -/
def execGethlen (s : State) : Host.Outcome State Fault Refusal :=
  .next <| s.ifReadable <|
    match s.hlen with
    | none => s.raise (.contractViolation .unsetField)
    | some n => s.respond (.headerLength n)

/-- GETBLOCKS (44_frame_fields R193). -/
def execGetblocks (s : State) : Host.Outcome State Fault Refusal :=
  .next <| s.ifReadable <|
    match s.hblk with
    | none => s.raise (.contractViolation .unsetField)
    | some b => s.respond (.blocks b)

/-- GETSTATUS (44_frame_fields R194): permitted in every phase, no fault. -/
def execGetstatus (s : State) : Host.Outcome State Fault Refusal :=
  .next <| s.respond (.status s.phase s.lenstale s.fsr s.fcause)

end Sys2Proof.Machine
end

