-- ==== Sys2Proof/Machine/Length.lean ====
section
/-! DEFINITION. COMPLEN, the length computation (41_length). -/
namespace Sys2Proof.Machine

/-- COMPLEN (41_length R150). -/
def execComplen (s : State) : Host.Outcome State Fault Refusal :=
  .next <| s.ifFresh <|
    if s.hblk = none then s.raise (.contractViolation .unsetField)
    else if lenMax < s.expLen then s.raise (.contractViolation .lenOverflow)
    else
      { s with len := BitVec.ofNat 24 s.expLen, lenstale := false }.respond (.length (BitVec.ofNat 24 s.expLen))

end Sys2Proof.Machine
end

