-- ==== Sys2Proof/Machine/Serialize.lean ====
section
/-! DEFINITION. ENCODE, the flag-conditional multiplexer (42_encode). -/
namespace Sys2Proof.Machine

/-- Line 6 of ENCODE: the priority word and the weight. With PRIORITY set the group holds a value (line 3). -/
def Wr.putPriority (wr : Wr) (mode : PackMode) (p : Option Prio) : Wr :=
  match p with
  | some p => (wr.putU32BE (pack mode p.excl p.sdep)).putU8 p.weight
  | none => wr

/-- Lines 5 to 8 of ENCODE: the payload of the frame in the register file, in the layout its flags select. `HBLK` holds a
value whenever ENCODE gets here (42_encode R160); were it none, no fragment (log 25). -/
def State.emitPayload (s : State) (wr : Wr) : Wr :=
  let wr5 := if flagPadded s.flags then wr.putU8 s.pad else wr
  let wr6 := if flagPriority s.flags then wr5.putPriority s.packMode s.prio else wr5
  let wr7 := wr6.putSlices (s.hblk.getD [])
  if flagPadded s.flags then wr7.putZeros s.pad.toNat else wr7

/-- The bytes of the common frame header (42_encode R160 line 4, R166). -/
def State.headerBytes (s : State) : List Byte := Config.frameHeader s.typeTag s.flags s.len s.sid

/-- ENCODE (42_encode R160): all checks come before the first byte is appended. -/
def execEncode (s : State) : Host.Outcome State Fault Refusal :=
  .next <| s.ifFresh <|
    if s.lenstale then s.raise (.contractViolation .lenStale)
    else if flagPriority s.flags && s.prio.isNone then s.raise (.contractViolation .unsetField)
    else
      { s with wr := s.emitPayload (s.wr.memWrite s.headerBytes), phase := .serialized }.respond .empty

end Sys2Proof.Machine
end

