-- ==== Sys2Proof/Machine/Setters.lean ====
section
/-! DEFINITION. The setters (44_frame_fields section 2): PhaseCheck(W), the range checks of 30_encoding R127, one write. -/
namespace Sys2Proof.Machine

/-- SETFLAGS (44_frame_fields R181): the whole byte, reserved bits included. -/
def execSetflags (f : Word) (s : State) : Host.Outcome State Fault Refusal :=
  .next <| s.ifFresh <|
    if flagsInRange f then { s with flags := low8 f, lenstale := true }.respond .empty
    else s.raise (.contractViolation .range)

/-- SETSID (44_frame_fields R182): `LENSTALE` is not changed. -/
def execSetsid (i : Word) (s : State) : Host.Outcome State Fault Refusal :=
  .next <| s.ifFresh <|
    if sidInRange i then { s with sid := low31 i }.respond .empty
    else s.raise (.contractViolation .range)

/-- SETPAD (44_frame_fields R183): `FLAGS` is not changed. -/
def execSetpad (n : Word) (s : State) : Host.Outcome State Fault Refusal :=
  .next <| s.ifFresh <|
    if padInRange n then { s with pad := low8 n, lenstale := true }.respond .empty
    else s.raise (.contractViolation .range)

/-- SETPRIO (44_frame_fields R184): the three fields together; `FLAGS` is not changed. -/
def execSetprio (d e g : Word) (s : State) : Host.Outcome State Fault Refusal :=
  .next <| s.ifFresh <|
    if sdepInRange d && exclInRange e && weightInRange g then
      { s with prio := some { excl := low1 e, sdep := low31 d, weight := low8 g }, lenstale := true }.respond .empty
    else s.raise (.contractViolation .range)

/-- SETBLOCKS (44_frame_fields R185): `HBLK` and `HLEN` in the same transition, no size check. -/
def execSetblocks (blocks : List Slice) (s : State) : Host.Outcome State Fault Refusal :=
  .next <| s.ifFresh <|
    { s with hblk := some blocks, hlen := some (size blocks), lenstale := true }.respond .empty

end Sys2Proof.Machine
end

