-- ==== Sys2Proof/Machine/Wire.lean ====
section
/-! DEFINITION. The wire rows of the opcode table. They are no commands (45 R200): a payload or a priority word is bytes that
the stream environment delivers on `IN` (20_memory R85; log 15), and the flags byte is the operand the host supplies to
SETFLAGS (10_state R22; log 16). -/
namespace Sys2Proof.Machine

/-- HEADERS.N (30_encoding R102): the payload bytes arrive on `IN`; the flags byte is not part of the payload. -/
def execHeadersN (flags : Byte) (fragment : List Byte) (s : State) : Host.Outcome State Fault Refusal :=
  s.deliver (wireBytes (.headersN flags fragment))

/-- HEADERS.P (30_encoding R103). -/
def execHeadersP (flags pad : Byte) (fragment padding : List Byte) (s : State) : Host.Outcome State Fault Refusal :=
  s.deliver (wireBytes (.headersP flags pad fragment padding))

/-- HEADERS.Q (30_encoding R104). -/
def execHeadersQ (flags : Byte) (e : Bool) (d : Sdep) (g : Byte) (fragment : List Byte) (s : State) :
    Host.Outcome State Fault Refusal :=
  s.deliver (wireBytes (.headersQ flags e d g fragment))

/-- HEADERS.PQ (30_encoding R105). -/
def execHeadersPQ (flags pad : Byte) (e : Bool) (d : Sdep) (g : Byte) (fragment padding : List Byte) (s : State) :
    Host.Outcome State Fault Refusal :=
  s.deliver (wireBytes (.headersPQ flags pad e d g fragment padding))

/-- PRIORITY_WORD (30_encoding R108): four bytes, big-endian. -/
def execPriorityWord (e : Bool) (d : Sdep) (s : State) : Host.Outcome State Fault Refusal :=
  s.deliver (wireBytes (.priorityWord e d))

/-- FLAGS_BYTE (10_state R22): "supplied by the host as an operand"; SETFLAGS is the command whose one operand it is. -/
def execFlagsByte (f : Byte) (s : State) : Host.Outcome State Fault Refusal := execSetflags (f.setWidth 32) s

end Sys2Proof.Machine
end

