-- ==== Sys2Proof/Machine/Dispatch.lean ====
section
/-! DEFINITION. One arm per row of the opcode table, each a direct call of the meaning of that row. -/
namespace Sys2Proof.Machine

def exec (i : Instr) (s : State) : Host.Outcome State Fault Refusal :=
  match i with
  | .new => Sys2Proof.Machine.execNew s
  | .setflags f => Sys2Proof.Machine.execSetflags f s
  | .setsid x => Sys2Proof.Machine.execSetsid x s
  | .setpad n => Sys2Proof.Machine.execSetpad n s
  | .setprio d e g => Sys2Proof.Machine.execSetprio d e g s
  | .setblocks blocks => Sys2Proof.Machine.execSetblocks blocks s
  | .gettype => Sys2Proof.Machine.execGettype s
  | .getflags => Sys2Proof.Machine.execGetflags s
  | .getlen => Sys2Proof.Machine.execGetlen s
  | .getsid => Sys2Proof.Machine.execGetsid s
  | .getpad => Sys2Proof.Machine.execGetpad s
  | .getprio => Sys2Proof.Machine.execGetprio s
  | .gethlen => Sys2Proof.Machine.execGethlen s
  | .getblocks => Sys2Proof.Machine.execGetblocks s
  | .ispadded => Sys2Proof.Machine.execIspadded s
  | .hasprio => Sys2Proof.Machine.execHasprio s
  | .endhdrs => Sys2Proof.Machine.execEndhdrs s
  | .flagname b => Sys2Proof.Machine.execFlagname b s
  | .getstatus => Sys2Proof.Machine.execGetstatus s
  | .decode f l x => Sys2Proof.Machine.execDecode f l x s
  | .complen => Sys2Proof.Machine.execComplen s
  | .encode => Sys2Proof.Machine.execEncode s
  -- the wire rows
  | .headersN flags fragment => Sys2Proof.Machine.execHeadersN flags fragment s
  | .headersP flags pad fragment padding => Sys2Proof.Machine.execHeadersP flags pad fragment padding s
  | .headersQ flags e d g fragment => Sys2Proof.Machine.execHeadersQ flags e d g fragment s
  | .headersPQ flags pad e d g fragment padding => Sys2Proof.Machine.execHeadersPQ flags pad e d g fragment padding s
  | .priorityWord e d => Sys2Proof.Machine.execPriorityWord e d s
  | .flagsByte f => Sys2Proof.Machine.execFlagsByte f s

end Sys2Proof.Machine
end

