-- ==== Sys2Proof/Machine/Port.lean ====
section
/-! DEFINITION. What the instance does with the next thing that arrives: a command, a move of the environment, RESET
(00_scope R6, 20_memory R85, 40_decode R141, 70_reset_and_hazards R260, R266, R272). -/
namespace Sys2Proof.Machine

/-- Go on from a next state; a stop stays a stop. -/
def andThen (o : Host.Outcome State Fault Refusal) (k : State → Host.Outcome State Fault Refusal) :
    Host.Outcome State Fault Refusal :=
  match o with
  | .next s => k s
  | .fault r => .fault r
  | .refused r => .refused r

/-- After an `AppendChunk` or a `Close` a pending DECODE "is evaluated again from line 1" (40_decode R141, log 10). -/
def resume (s : State) : Host.Outcome State Fault Refusal :=
  match s.held with
  | none => .next s
  | some h => exec (.decode h.f h.l h.s) { s with held := none }

/-- Something to decode arrives. A wire row is the environment's delivery of bytes; everything else is the host's and needs
an instance with no command pending (70_reset_and_hazards R266). An illegal opcode is decoded first (60_exceptions R228)
and raises ILLEGAL_CMD in every phase (30_encoding R122). -/
def issue (r : Raw) (s : State) : Host.Outcome State Fault Refusal :=
  match decode r with
  | .ok i =>
    if i.isWire then andThen (exec i s) resume
    else if s.held.isSome then .refused .commandWhilePending
    else exec i s
  | .error (.illegalCmd _) =>
    if s.held.isSome then .refused .commandWhilePending else .next (s.raise (.contractViolation .illegalCmd))
  | .error (.noLayout _) => .refused .notALayout

/-- One arrival. -/
def accept (x : Input) (s : State) : Host.Outcome State Fault Refusal :=
  match x with
  | .raw r => issue r s
  | .appendChunk c => andThen (s.appendChunk c) resume
  | .close => andThen s.close resume
  | .drain k => .next (s.drain k)
  | .reset => .next s.resetInput

/-- Take the oldest arrival; with none, wait (70_reset_and_hazards R261). -/
def advance (s : State) : Host.Outcome State Fault Refusal :=
  match s.inputs with
  | [] => .next s
  | x :: rest => accept x { s with inputs := rest }

/-- Place what the bits of a row of the table stand for as the very next arrival, with no command pending (log 19). -/
def State.place (s : State) (nbits w : Nat) : State :=
  { s with inputs := .raw (rawOfTableWord nbits w) :: s.inputs, held := none }

end Sys2Proof.Machine
end

