-- ==== Sys2Proof/Machine/Step.lean ====
section
/-! DEFINITION. One step of the instance: one arrival, taken and completed (20_memory R80). -/
namespace Sys2Proof.Machine

def step (s : State) : Host.Outcome State Fault Refusal := advance s

/-- The state whose very next step decodes and runs the row of the table with these bits. -/
def State.withFetchWord (s : State) (nbits w : Nat) : State := s.place nbits w

end Sys2Proof.Machine
end

