-- ==== Sys2Proof/Machine/Pseudo.lean ====
section
/-! DEFINITION. The pseudo-commands of the assembler, expanded into commands (30_encoding R124, 44_frame_fields R196). -/
namespace Sys2Proof.Machine

/-- `SERIALIZE`: COMPLEN then ENCODE. -/
def pseudoSerialize : List Instr := [.complen, .encode]

/-- The value a GETFLAGS has answered with; none where it faulted. -/
def State.flagsRead (s : State) : Option Byte :=
  match s.resp with
  | some (.ok (.flags v)) => some v
  | _ => none

/-- GETFLAGS, then SETFLAGS of what `k` makes of the value read, zero-extended to the operand port. Where GETFLAGS faults
there is no value read, and SETFLAGS is not issued: on the FAULTED frame it could only raise the same BAD_PHASE again, which
changes nothing more. -/
def rewriteFlags (k : Word → Word) (s : State) : Host.Outcome State Fault Refusal :=
  andThen (exec .getflags s) fun t =>
    match t.flagsRead with
    | some v => exec (.setflags (k (v.setWidth 32))) t
    | none => .next t

/-- `SETFLAG m`: GETFLAGS, then `SETFLAGS (v | m)` with `v` the value read. DESIGN CHOICE (log 28): R124 gives the mask no
width; here it is as wide as the operand it is or-ed into, 32 bits, so a mask with a bit above bit 7 reaches SETFLAGS and
faults RANGE there. -/
def pseudoSetflag (m : Word) : State → Host.Outcome State Fault Refusal := rewriteFlags (· ||| m)

/-- `CLRFLAG m`: GETFLAGS, then `SETFLAGS (v & ~m)` with `v` the value read; the mask is 32 bits wide as in `SETFLAG`
(DESIGN CHOICE, log 28), so its bits above bit 7 clear nothing. -/
def pseudoClrflag (m : Word) : State → Host.Outcome State Fault Refusal := rewriteFlags (· &&& ~~~m)

/-- `BUILD f, s, p, (d, e, w), blocks`; `none` is the `-` of the assembler. -/
def pseudoBuild (f s : Word) (p : Option Word) (prio : Option (Word × Word × Word)) (blocks : List Slice) : List Instr :=
  [.new, .setflags f, .setsid s]
    ++ (p.map Instr.setpad).toList
    ++ (prio.map fun q => Instr.setprio q.1 q.2.1 q.2.2).toList
    ++ [.setblocks blocks, .complen]

/-- Commands issued one after the other (20_memory R80). -/
def execAll : List Instr → State → Host.Outcome State Fault Refusal
  | [], s => .next s
  | i :: is, s => andThen (exec i s) (execAll is)

end Sys2Proof.Machine
end

