-- ==== Sys2Proof/Safety.lean ====
section
/-! DEFINITION. What counts as a safe run, when two frames are equal, and the invariant of the instance, in the terms the
statements use. -/
namespace Sys2Proof.Machine

/-- A run has ended well (70_reset_and_hazards R273): no command pending, `FSR = 0b000`, `PHASE` not `FAULTED`. -/
abbrev State.EndedWell (s : State) : Prop := s.held = none ∧ s.fsr = 0b000#3 ∧ s.phase ≠ .faulted

/-- Frame equality (00_scope R13): field-wise, header blocks by their bytes, gated fields by their effective value. -/
abbrev SameFrame (a b : State) : Prop :=
  a.typeTag = b.typeTag ∧ a.flags = b.flags ∧ a.len = b.len ∧ a.sid = b.sid ∧ a.effPad = b.effPad ∧
    a.effPrio = b.effPrio ∧ a.hlen = b.hlen ∧ a.hblk.map concat = b.hblk.map concat

/-- INV-HB (10_state R31): `Size(HBLK) = HLEN` in every state, and one holds no value exactly when the other does (R30). -/
abbrev State.HeaderLengthInv (s : State) : Prop := s.hlen = s.hblk.map size

/-- INV-LEN (10_state R31): in `DECODED`, in `SERIALIZED`, and in `FRESH` when the length is not stale, `LEN = ExpLen`, and
the header block holds a value. -/
abbrev State.LengthInv (s : State) : Prop :=
  (s.phase = .decoded ∨ s.phase = .serialized → s.lenstale = false) ∧
    (s.phase ≠ .faulted → s.lenstale = false → s.hblk.isSome = true ∧ s.len.toNat = s.expLen)

/-- What PHASE, FCAUSE, FSR and the poison bit say of each other (10_state R36, 60_exceptions R224): a frame is FAULTED
exactly when a cause is recorded, the recorded cause's bit is set, a poisoned reader has left a stream fault's bit. -/
abbrev State.FaultInv (s : State) : Prop :=
  (s.phase = .faulted ↔ s.fcause.isSome = true) ∧
    (∀ c, s.fcause = some c → s.fsr &&& c.fsrBit = c.fsrBit) ∧
    (s.rd.poisoned = true → s.fsr &&& 0b101#3 ≠ 0#3)

/-- A decoded frame carries no stale value in a gated field (40_decode R143); a serialized frame with PRIORITY set had a
priority to send (42_encode R160). -/
abbrev State.GatingInv (s : State) : Prop :=
  (s.phase = .decoded →
      (flagPadded s.flags = false → s.pad = 0#8) ∧ s.prio.isSome = flagPriority s.flags) ∧
    (s.phase = .serialized → flagPriority s.flags = true → s.prio.isSome = true)

/-- A DECODE is pending only on a fresh frame, with an open, unpoisoned stream, and with no response yet (40_decode R141,
60_exceptions R232). -/
abbrev State.HeldInv (s : State) : Prop :=
  s.held.isSome = true → s.phase = .fresh ∧ s.rd.closed = false ∧ s.rd.poisoned = false ∧ s.resp = none

/-- What is still undrained was appended (10_state R38). -/
abbrev State.OutputInv (s : State) : Prop := s.wr.content.length ≤ s.wr.pos

/-- The invariant of the instance. -/
structure State.Inv (s : State) : Prop where
  memory : Memory.wf s
  headerLength : s.HeaderLengthInv
  length : s.LengthInv
  faults : s.FaultInv
  gating : s.GatingInv
  held : s.HeldInv
  output : s.OutputInv

end Sys2Proof.Machine
end

