-- ==== Sys2Proof/Certificates/Slice0/Obligations.lean ====
section
/-! DEFINITION. The statements for the provers, and the few definitions they are written in: the spec's own terms, spelled out
a second time and apart from the model's definitions, so that a slip in the model makes a statement false. -/

namespace Sys2Proof.Claims
open Sys2Proof.Machine

/-- The command word of 30_encoding R120 as a number: `op` in bits 103:96, `a0` in 95:64, `a1` in 63:32, `a2` in 31:0. -/
def word (op : Nat) (a0 a1 a2 : Word) : CmdWord :=
  BitVec.ofNat 104 (2 ^ 96 * op + 2 ^ 64 * a0.toNat + 2 ^ 32 * a1.toNat + a2.toNat)

/-- What opcode and operands stand for (30_encoding R121); none is an illegal opcode (R122). -/
def opcodeRow (op : Nat) (a0 a1 a2 : Word) (blk : List Slice) : Option Instr :=
  if op = 0x00 then some .new
  else if op = 0x01 then some (.setflags a0)
  else if op = 0x02 then some (.setsid a0)
  else if op = 0x03 then some (.setpad a0)
  else if op = 0x04 then some (.setprio a0 a1 a2)
  else if op = 0x05 then some (.setblocks blk)
  else if op = 0x10 then some .gettype
  else if op = 0x11 then some .getflags
  else if op = 0x12 then some .getlen
  else if op = 0x13 then some .getsid
  else if op = 0x14 then some .getpad
  else if op = 0x15 then some .getprio
  else if op = 0x16 then some .gethlen
  else if op = 0x17 then some .getblocks
  else if op = 0x18 then some .ispadded
  else if op = 0x19 then some .hasprio
  else if op = 0x1A then some .endhdrs
  else if op = 0x1B then some (.flagname a0)
  else if op = 0x1C then some .getstatus
  else if op = 0x20 then some (.decode a0 a1 a2)
  else if op = 0x21 then some .complen
  else if op = 0x22 then some .encode
  else none

/-- PADDED, `(FLAGS & 0x08) != 0` (43_flag_queries R172). -/
abbrev Padded (f : Byte) : Prop := f &&& 0x08#8 ≠ 0#8
/-- PRIORITY, `(FLAGS & 0x20) != 0` (43_flag_queries R173). -/
abbrev Priority (f : Byte) : Prop := f &&& 0x20#8 ≠ 0#8
/-- END_HEADERS, `(FLAGS & 0x04) != 0` (43_flag_queries R171). -/
abbrev EndHeaders (f : Byte) : Prop := f &&& 0x04#8 ≠ 0#8

/-- The fault entry (60_exceptions R224) outside lines 5 to 10 of DECODE: the kind's bit of `FSR`, `FCAUSE` if it is none,
`PHASE`, and the outcome; nothing else. -/
def faulted (s : State) (c : Cause) : State :=
  { s with
    fsr := match c with
      | .truncatedInput _ => s.fsr ||| 0b001#3
      | .contractViolation _ => s.fsr ||| 0b010#3
      | .malformedFrame _ => s.fsr ||| 0b100#3
    fcause := match s.fcause with
      | none => some c
      | some first => some first
    phase := .faulted
    resp := some (.fault c) }

/-- The fault entry of a ContractViolation. -/
abbrev violation (s : State) (v : ContractSub) : State := faulted s (.contractViolation v)

/-- The command changes nothing but its response `OK(v)`. -/
def answered (s : State) (v : Value) : State := { s with resp := some (.ok v) }

/-- The priority word as a number (30_encoding R110, R111). -/
def packNat (mode : PackMode) (e : Bool) (d : Nat) : Nat :=
  match mode, e with
  | _, false => d
  | .or, true => 2 ^ 31 + d
  | .shiftCompat, true => 2 ^ ((31 + d) % 32)

/-- The four bytes of a word, most significant first (20_memory R72). -/
def wordBytes (n : Nat) : List Byte :=
  [BitVec.ofNat 8 (n / 2 ^ 24), BitVec.ofNat 8 (n / 2 ^ 16), BitVec.ofNat 8 (n / 2 ^ 8), BitVec.ofNat 8 n]

/-- The bytes of the fixed optional fields, `overhead` (00_scope R14). -/
def fixedBytes (f : Byte) : Nat := (if Padded f then 1 else 0) + (if Priority f then 5 else 0)

/-- `ExpLen` (30_encoding R116). -/
def expectedLength (f pad : Byte) (headerLength : Nat) : Nat :=
  (if Padded f then 1 + pad.toNat else 0) + (if Priority f then 5 else 0) + headerLength

/-- A payload in the layout its flags select (30_encoding R100, R101): Pad Length, priority block, fragment, padding. -/
def payload (mode : PackMode) (f pad : Byte) (p : Prio) (fragment padding : List Byte) : List Byte :=
  (if Padded f then [pad] else []) ++
    (if Priority f then wordBytes (packNat mode p.excl p.sdep.toNat) ++ [p.weight] else []) ++
    fragment ++ (if Padded f then padding else [])

/-- The operands of DECODE are in range (40_decode R140 line 3). -/
abbrev DecodeOperands (f l i : Word) : Prop :=
  0 ≤ f.toInt ∧ f.toInt ≤ 255 ∧ 0 ≤ l.toInt ∧ l.toInt ≤ 16777215 ∧ 0 ≤ i.toInt

/-- A DECODE passes its lines 1 to 3 (40_decode R140). -/
abbrev DecodeStarts (s : State) (f l i : Word) : Prop :=
  s.phase = .fresh ∧ s.rd.poisoned = false ∧ DecodeOperands f l i

/-- How lines 5 to 10 of DECODE end on the bytes available (40_decode R140), with the bytes consumed until then. -/
inductive Ending where
  | malformed (sub : MalformedSub) (consumed : Nat)
  | missing (sub : TruncatedSub) (consumed : Nat)
  | complete

/-- The lines of DECODE in order (40_decode R140), on flags `f`, declared length `L` and available bytes `A`. -/
def ending (f : Byte) (L : Nat) (A : List Byte) : Ending :=
  let a := if Padded f then 1 else 0
  let q := if Priority f then 5 else 0
  let p := if Padded f then (A.headD 0#8).toNat else 0
  if Padded f ∧ L < 1 then .malformed .padLength 0
  else if Padded f ∧ A.length < 1 then .missing .padLength 0
  else if Priority f ∧ L < a + 5 then .malformed .priority a
  else if Priority f ∧ A.length < a + 4 then .missing .priorityWord a
  else if Priority f ∧ A.length < a + 5 then .missing .weight (a + 4)
  else if L < a + q + p then .malformed .padding (a + q)
  else if A.length < L - p then .missing .headerBlock (a + q)
  else if A.length < L then .missing .padding (L - p)
  else .complete

/-- A DECODE ended with a fault of lines 5 to 10 (40_decode R145, 60_exceptions R224): `k` bytes stay consumed, the reader is
poisoned, the seven frame registers hold any value, the fault entry is performed, nothing else changes. -/
def StreamFaulted (s : State) (c : Cause) (k : Nat) (t : State) : Prop :=
  ∃ flags len sid pad prio hblk hlen buf n,
    buf.flatten = s.rd.buf.flatten.drop k ∧
    t = { faulted s c with
      flags := flags, len := len, sid := sid, pad := pad, prio := prio, hblk := hblk, hlen := hlen
      rd := { s.rd with buf := buf, pos := s.rd.pos + k, poisoned := true }
      draws := n }

/-- The permission table of 10_state R34 (FLAGS_BYTE as SETFLAGS, log 16; the other wire rows are no commands). -/
def permitted (i : Instr) (p : Phase) : Bool :=
  match i with
  | .new | .getstatus | .flagname _ => true
  | .setflags _ | .setsid _ | .setpad _ | .setprio .. | .setblocks _ | .complen | .encode | .decode .. | .flagsByte _ =>
    p == .fresh
  | .gettype | .getflags | .getlen | .getsid | .getpad | .getprio | .gethlen | .getblocks | .ispadded | .hasprio
  | .endhdrs => p != .faulted
  | .headersN .. | .headersP .. | .headersQ .. | .headersPQ .. | .priorityWord .. => true

/-- The fault matrix of 60_exceptions R238. -/
def mayRaise (i : Instr) (c : Cause) : Prop :=
  match i with
  | .new | .getstatus | .flagname _ => False
  | .setflags _ | .setsid _ | .setpad _ | .setprio .. | .flagsByte _ =>
    c = .contractViolation .badPhase ∨ c = .contractViolation .range
  | .setblocks _ | .gettype | .getflags | .getlen | .getsid | .getpad | .ispadded | .hasprio | .endhdrs =>
    c = .contractViolation .badPhase
  | .getprio | .gethlen | .getblocks =>
    c = .contractViolation .badPhase ∨ c = .contractViolation .unsetField
  | .complen =>
    c = .contractViolation .badPhase ∨ c = .contractViolation .unsetField ∨ c = .contractViolation .lenOverflow
  | .encode =>
    c = .contractViolation .badPhase ∨ c = .contractViolation .unsetField ∨ c = .contractViolation .lenStale
  | .decode .. =>
    c = .contractViolation .badPhase ∨ c = .contractViolation .range ∨ c = .contractViolation .rdPoisoned ∨
      (∃ sub, c = .truncatedInput sub) ∨ ∃ sub, c = .malformedFrame sub
  | .headersN .. | .headersP .. | .headersQ .. | .headersPQ .. | .priorityWord .. => False

/-- Is it one of the 22 commands? -/
abbrev Command (i : Instr) : Prop := opcodeOf i ≠ none

/-- The getters and flag queries, and the status read: the commands that only read. -/
def onlyReads : Instr → Bool
  | .gettype | .getflags | .getlen | .getsid | .getpad | .getprio | .gethlen | .getblocks | .ispadded | .hasprio
  | .endhdrs | .flagname _ | .getstatus => true
  | .new | .setflags _ | .setsid _ | .setpad _ | .setprio .. | .setblocks _ | .decode .. | .complen | .encode
  | .headersN .. | .headersP .. | .headersQ .. | .headersPQ .. | .priorityWord .. | .flagsByte _ => false

/-- A write of bytes as segments: nothing for no bytes (20_memory R69). -/
def bytesSeg (l : List Byte) : List Seg := if l = [] then [] else [Seg.bytes l]

/-- The segments of the priority block (42_encode R160 line 6). -/
def prioritySegs (mode : PackMode) : Option Prio → List Seg
  | some p => [Seg.bytes (wordBytes (packNat mode p.excl p.sdep.toNat)), Seg.bytes [p.weight]]
  | none => []

/-- The segments ENCODE appends (42_encode R160 lines 4 to 8), for a frame with header blocks `b`. -/
def encodedSegs (s : State) (b : List Slice) : List Seg :=
  List.flatten
    [bytesSeg (Config.frameHeader 1#8 s.flags s.len s.sid),
      if Padded s.flags then bytesSeg [s.pad] else [],
      if Priority s.flags then prioritySegs s.packMode s.prio else [],
      b.map Seg.ref,
      if Padded s.flags then bytesSeg (List.replicate s.pad.toNat 0x00#8) else []]

/-- The bytes a wire row puts on the wire (30_encoding R100 to R108). -/
def wireImage : Instr → List Byte
  | .headersN f fragment => payload .or f 0#8 ⟨false, 0, 0⟩ fragment []
  | .headersP f pad fragment padding => payload .or f pad ⟨false, 0, 0⟩ fragment padding
  | .headersQ f e d g fragment => payload .or f 0#8 ⟨e, d, g⟩ fragment []
  | .headersPQ f pad e d g fragment padding => payload .or f pad ⟨e, d, g⟩ fragment padding
  | .priorityWord e d => wordBytes (packNat .or e d.toNat)
  | _ => []

/-- The fields of a payload row: flags, Pad Length, priority, fragment. -/
def payloadFields : Instr → Option (Byte × Byte × Option Prio × List Byte)
  | .headersN f fragment => some (f, 0#8, none, fragment)
  | .headersP f pad fragment _ => some (f, pad, none, fragment)
  | .headersQ f e d g fragment => some (f, 0#8, some ⟨e, d, g⟩, fragment)
  | .headersPQ f pad e d g fragment _ => some (f, pad, some ⟨e, d, g⟩, fragment)
  | _ => none

end Sys2Proof.Claims

open Sys2Proof Sys2Proof.Machine Sys2Proof.Claims

/-! ### Encoding -/

/-- Command words written out in 95_test_vectors P1 to P5 (`op a0 a1 a2`), one at least per family, decode to what they stand
for, and so do the wire rows' bytes: the payloads D7 and D4 and the priority word K4 of 95_test_vectors (30_encoding R103,
R105, R108), and a flags byte (10_state R22). That a payload, a priority word and a flags byte arrive on ports of their own,
and so which row each stands for, is the model's choice, log 17: the last four clauses rest on it. -/
def Obligations.WordsWrittenOutFromTheSpecDecode : Prop :=
  decode (.command 0x00000000000000000000000000#104 []) = .ok .new ∧
  decode (.command 0x01000000280000000000000000#104 []) = .ok (.setflags 0x28) ∧
  decode (.command 0x040000000500000001000000C8#104 []) = .ok (.setprio 5 1 200) ∧
  decode (.command 0x05000000000000000000000000#104 [[0xDE, 0xAD], [0xBE, 0xEF]]) =
    .ok (.setblocks [[0xDE, 0xAD], [0xBE, 0xEF]]) ∧
  decode (.command 0x1A000000000000000000000000#104 []) = .ok .endhdrs ∧
  decode (.command 0x1C000000000000000000000000#104 []) = .ok .getstatus ∧
  decode (.command 0x20000000280000001300000001#104 []) = .ok (.decode 0x28 19 1) ∧
  decode (.command 0x21000000000000000000000000#104 []) = .ok .complen ∧
  decode (.command 0x22000000000000000000000000#104 []) = .ok .encode ∧
  decode (.command 0x06000000000000000000000000#104 []) = .error (.illegalCmd 0x06) ∧
  decode (.payload 0x2D [0x01, 0x80, 0x00, 0x00, 0x03, 0x00, 0x82, 0x86, 0x84, 0x7E]) =
    .ok (.headersPQ 0x2D 1 true 3 0 [0x82, 0x86, 0x84] [0x7E]) ∧
  decode (.payload 0x08 [0x02, 0x11, 0x22, 0x33, 0x99, 0x98]) =
    .ok (.headersP 0x08 2 [0x11, 0x22, 0x33] [0x99, 0x98]) ∧
  decode (.wireWord 0x80000005) = .ok (.priorityWord true 5) ∧
  decode (.byte 0x2D) = .ok (.flagsByte 0x2D)

/-- No bit of an encoding is dropped: every well-formed instruction is read back from its encoding. The ports the wire rows
are encoded on are the model's choice, log 17. -/
def Obligations.DecodingAnEncodedInstructionGivesItBack : Prop :=
  ∀ i : Instr, WellFormed i → decode (encode i) = .ok i

/-- 30_encoding R121 with the fields of R120: opcode and operands of every command word, unused operands ignored; R122's
closed map. -/
def Obligations.EveryCommandWordReadsAsTheOpcodeMapSays : Prop :=
  ∀ (op : Nat) (a0 a1 a2 : Word) (blk : List Slice), op < 256 →
    decode (.command (word op a0 a1 a2) blk) =
      match opcodeRow op a0 a1 a2 blk with
      | some i => .ok i
      | none => .error (.illegalCmd (BitVec.ofNat 8 op))

/-! ### The step -/

/-- A step runs the decoded instruction: a host's command when none is pending is `exec` of it with the arrival taken
(20_memory R80). The two clauses on wire rows are the model's choice: no rule of the spec makes a wire row an arrival. That
it acts as a delivery of its bytes, and so is refused on a closed stream as an `AppendChunk` is (20_memory R85), is log 15;
that a pending DECODE, which 40_decode R141 evaluates again from line 1 after the environment's next `AppendChunk` or
`Close`, is evaluated again after it, and in the same step, is log 15 and log 10. -/
def Obligations.StepRunsTheDecodedInstruction : Prop :=
  ∀ (s : State) (r : Raw) (rest : List Input) (i : Instr), s.inputs = .raw r :: rest → decode r = .ok i →
    (i.isWire = false → s.held = none → step s = exec i { s with inputs := rest }) ∧
    (i.isWire = true → s.rd.closed = true → step s = .refused .appendAfterClose) ∧
    (i.isWire = true → s.rd.closed = false →
      ∃ t, exec i { s with inputs := rest } = .next t ∧
        step s = match s.held with
          | none => .next t
          | some h => exec (.decode h.f h.l h.s) { t with held := none })

/-- 30_encoding R122: an illegal opcode raises ContractViolation(ILLEGAL_CMD) in every phase and changes nothing else. -/
def Obligations.IllegalOpcodeRaisesIllegalCmdInEveryPhase : Prop :=
  ∀ (s : State) (op : Nat) (a0 a1 a2 : Word) (blk : List Slice) (rest : List Input),
    (0x06 ≤ op ∧ op ≤ 0x0F ∨ 0x1D ≤ op ∧ op ≤ 0x1F ∨ 0x23 ≤ op ∧ op ≤ 0xFF) →
    s.held = none → s.inputs = .raw (.command (word op a0 a1 a2) blk) :: rest →
    step s = .next (violation { s with inputs := rest } .illegalCmd)

/-- 20_memory R85: what each move of the environment does with no command pending. `Drain` counts bytes (the model's
choice, log 14). With no arrival the step idles, the model's form of waiting (70 R261, log 8). -/
def Obligations.EnvironmentMovesChangeOnlyTheStreams : Prop :=
  (∀ s : State, s.inputs = [] → step s = .next s) ∧
  (∀ (s : State) (c : List Byte) (rest : List Input), s.inputs = .appendChunk c :: rest → c ≠ [] → s.held = none →
    s.rd.closed = false →
    step s = .next { s with inputs := rest, rd := { s.rd with buf := s.rd.buf ++ [c] } }) ∧
  (∀ (s : State) (rest : List Input), s.inputs = .close :: rest → s.held = none → s.rd.closed = false →
    step s = .next { s with inputs := rest, rd := { s.rd with closed := true } }) ∧
  (∀ (s : State) (k : Nat) (rest : List Input), s.inputs = .drain k :: rest →
    ∃ segs, step s = .next { s with inputs := rest, wr := { s.wr with segs := segs } } ∧
      (Wr.mk segs s.wr.pos).content = s.wr.content.drop k)

/-- 40_decode R141, 60_exceptions R232: a pending DECODE is evaluated again from line 1 after an `AppendChunk` or a `Close`,
on the stream as that move left it; that this is one step with the move is the model's reading, log 10. -/
def Obligations.PendingDecodeIsEvaluatedAgainAfterTheStreamMoves : Prop :=
  ∀ (s : State) (h : Held) (rest : List Input), s.held = some h →
    (∀ c, s.inputs = .appendChunk c :: rest → c ≠ [] → s.rd.closed = false →
      step s = exec (.decode h.f h.l h.s)
        { s with inputs := rest, held := none, rd := { s.rd with buf := s.rd.buf ++ [c] } }) ∧
    (s.inputs = .close :: rest → s.rd.closed = false →
      step s = exec (.decode h.f h.l h.s)
        { s with inputs := rest, held := none, rd := { s.rd with closed := true } })

/-- 60_exceptions R232: `Close` ends every hold, with a response; and the hold ends as soon as the declared bytes are there
(in the step of that move: the model's reading, log 10). -/
def Obligations.CloseOrEnoughBytesEndTheHold : Prop :=
  ∀ (s : State) (h : Held) (rest : List Input), s.held = some h → DecodeStarts s h.f h.l h.s →
    (s.inputs = .close :: rest → s.rd.closed = false → ∃ t, step s = .next t ∧ t.held = none ∧ t.resp ≠ none) ∧
    (∀ c, s.inputs = .appendChunk c :: rest → c ≠ [] → s.rd.closed = false →
      h.l.toNat ≤ (s.rd.buf.flatten ++ c).length → ∃ t, step s = .next t ∧ t.held = none ∧ t.resp ≠ none)

/-- 70_reset_and_hazards R266: a command that arrives while one is pending has no step. -/
def Obligations.CommandWhileOneIsPendingHasNoStep : Prop :=
  ∀ (s : State) (op : Nat) (a0 a1 a2 : Word) (blk : List Slice) (rest : List Input), op < 256 → s.held ≠ none →
    s.inputs = .raw (.command (word op a0 a1 a2) blk) :: rest → step s = .refused .commandWhilePending

/-- The rows of 10_state R43: what every piece of state holds after RESET. Of `SID` nothing is said: it is any value. -/
def Sys2Proof.Claims.AsAfterReset (t : State) : Prop :=
  t.typeTag = 1#8 ∧ t.flags = 0x00#8 ∧ t.len = 0#24 ∧ t.lenstale = true ∧ t.pad = 0#8 ∧ t.prio = none ∧ t.hblk = none ∧
    t.hlen = none ∧ t.phase = .fresh ∧ t.fcause = none ∧ t.fsr = 0b000#3 ∧ t.rd = ⟨[], false, false, 0⟩ ∧ t.wr = ⟨[], 0⟩

/-- 70_reset_and_hazards R260: RESET is taken in every state, also while a command holds, which is abandoned without outcome
(no response to it appears; that none stands while it is pending is log 11); it sets every piece of state to the value of
10_state R43 and does not change the parameter. -/
def Obligations.ResetInputSetsEveryPieceOfState : Prop :=
  ∀ (s : State) (rest : List Input), s.inputs = .reset :: rest →
    ∃ t, step s = .next t ∧ AsAfterReset t ∧ t.held = none ∧ t.packMode = s.packMode ∧
      (s.held ≠ none → s.resp = none → t.resp = none)

/-- 10_state R43: the values after RESET, and which of them NEW sets too (NEW: the rows marked so, and the other rows left). -/
def Obligations.ResetStateHoldsTheValuesOfTheTable : Prop :=
  AsAfterReset State.reset ∧
  ∀ s : State, ∃ t, exec .new s = .next t ∧ t.fsr = s.fsr ∧ t.rd = s.rd ∧ t.wr = s.wr ∧
    AsAfterReset { t with fsr := State.reset.fsr, rd := State.reset.rd, wr := State.reset.wr }

/-- No command is ever stopped, in any state, on any operands. The step stops on a move the spec has no step for: a command
(anything to decode but a wire row) while one is pending (R266); after Close, bytes (a wire row or a chunk) or a second Close
(R85, R272); an empty chunk (R85); and on one it stops by
the model's own choice, log 17, which no rule of the spec makes: bytes offered as a payload row (log 15) that fit no layout
of R102 to R105. -/
def Obligations.OnlyForbiddenMovesStopTheStep : Prop :=
  (∀ (i : Instr) (s : State), Command i → ∃ t, exec i s = .next t) ∧
  ∀ s : State, (∃ t, step s = .next t) ∨
    ∃ x rest, s.inputs = x :: rest ∧
      ((s.held ≠ none ∧ (∃ r, x = .raw r ∧ ∀ i, decode r = .ok i → i.isWire = false) ∧
          step s = .refused .commandWhilePending) ∨
        (s.rd.closed = true ∧ ((∃ r i, x = .raw r ∧ decode r = .ok i ∧ i.isWire = true) ∨ ∃ c, c ≠ [] ∧ x = .appendChunk c) ∧
          step s = .refused .appendAfterClose) ∨
        (s.rd.closed = true ∧ x = .close ∧ step s = .refused .closeAfterClose) ∨
        (x = .appendChunk [] ∧ step s = .refused .emptyChunk) ∨
        (∃ f b, x = .raw (.payload f b) ∧ decode (.payload f b) = .error (.noLayout f) ∧
          step s = .refused .notALayout))

/-! ### Faults -/

/-- 10_state R34: where the table says BAD_PHASE the command raises it and does nothing else; where it says ok the command
does not raise it. -/
def Obligations.CommandsArePermittedByPhaseAsTheTableSays : Prop :=
  ∀ (i : Instr) (s : State), Command i →
    (permitted i s.phase = false → exec i s = .next (violation s .badPhase)) ∧
    (permitted i s.phase = true → ∀ t, exec i s = .next t → t.resp ≠ some (.fault (.contractViolation .badPhase)))

/-- 60_exceptions R238: no command raises a fault the matrix leaves blank. -/
def Obligations.CommandsRaiseOnlyTheFaultsOfTheMatrix : Prop :=
  ∀ (i : Instr) (s t : State) (c : Cause), Command i → exec i s = .next t → t.resp = some (.fault c) → mayRaise i c

/-- 60_exceptions R225: a command that ends in a ContractViolation changes only what the fault entry of R224 lists. -/
def Obligations.ContractViolationChangesOnlyWhatTheEntryLists : Prop :=
  ∀ (i : Instr) (s t : State) (v : ContractSub), Command i → exec i s = .next t →
    t.resp = some (.fault (.contractViolation v)) → t = violation s v

/-- 10_state R36, 60_exceptions R227: a bit of FSR, once set, is cleared only by RESET, every other step keeps it; FCAUSE
keeps the first cause of the frame through every command but NEW. -/
def Obligations.FaultBitsStayUntilResetAndTheCauseUntilNew : Prop :=
  (∀ (s t : State), step s = .next t → (∀ rest, s.inputs ≠ .reset :: rest) → s.fsr &&& t.fsr = s.fsr) ∧
  (∀ (i : Instr) (s t : State) (c : Cause), i ≠ .new → exec i s = .next t → s.fcause = some c → t.fcause = some c)

/-- 70_reset_and_hazards R261: only RESET clears the poison of the reader, and until then DECODE on a fresh frame faults
RD_POISONED. -/
def Obligations.PoisonedReaderStaysPoisonedUntilReset : Prop :=
  (∀ (s t : State), step s = .next t → (∀ rest, s.inputs ≠ .reset :: rest) → s.rd.poisoned = true →
    t.rd.poisoned = true) ∧
  (∀ (f l i : Word) (s : State), s.phase = .fresh → s.rd.poisoned = true →
    exec (.decode f l i) s = .next (violation s .rdPoisoned))

/-- 10_state R42, the column "written by": a command not listed for a register leaves it as it was. -/
def Obligations.CommandsWriteOnlyTheRegistersOfTheAccessTable : Prop :=
  ∀ (i : Instr) (s t : State), Command i → exec i s = .next t →
    (t.flags ≠ s.flags → i = .new ∨ (∃ f, i = .setflags f) ∨ ∃ f l x, i = .decode f l x) ∧
    (t.len ≠ s.len → i = .new ∨ i = .complen ∨ ∃ f l x, i = .decode f l x) ∧
    (t.sid ≠ s.sid → i = .new ∨ (∃ x, i = .setsid x) ∨ ∃ f l x, i = .decode f l x) ∧
    (t.pad ≠ s.pad → i = .new ∨ (∃ n, i = .setpad n) ∨ ∃ f l x, i = .decode f l x) ∧
    (t.prio ≠ s.prio → i = .new ∨ (∃ d e g, i = .setprio d e g) ∨ ∃ f l x, i = .decode f l x) ∧
    (t.hblk ≠ s.hblk ∨ t.hlen ≠ s.hlen → i = .new ∨ (∃ b, i = .setblocks b) ∨ ∃ f l x, i = .decode f l x) ∧
    (t.phase ≠ s.phase → i = .new ∨ (∃ f l x, i = .decode f l x) ∨ i = .encode ∨ ∃ c, t.resp = some (.fault c)) ∧
    (t.fsr ≠ s.fsr → ∃ c, t.resp = some (.fault c)) ∧
    (t.fcause ≠ s.fcause → i = .new ∨ ∃ c, t.resp = some (.fault c)) ∧
    (t.rd ≠ s.rd → ∃ f l x, i = .decode f l x) ∧
    (t.wr ≠ s.wr → i = .encode) ∧
    (t.held ≠ s.held → ∃ f l x, i = .decode f l x) ∧
    t.packMode = s.packMode ∧ t.inputs = s.inputs ∧ t.typeTag = 1#8

/-- 10_state R33: the codes of the phases, and the phase after every command: FAULTED after a fault, FRESH after NEW
and RESET, DECODED and SERIALIZED after a DECODE and an ENCODE of a fresh frame, otherwise unchanged. -/
def Obligations.PhaseMovesOnlyAlongTheLifecycle : Prop :=
  (Phase.code .fresh = 0 ∧ Phase.code .decoded = 1 ∧ Phase.code .serialized = 2 ∧ Phase.code .faulted = 3) ∧
  (∀ (s : State) (rest : List Input), s.inputs = .reset :: rest → ∃ t, step s = .next t ∧ t.phase = .fresh) ∧
  ∀ (i : Instr) (s t : State), Command i → exec i s = .next t →
    match t.resp, i with
    | some (.fault _), _ => t.phase = .faulted
    | some (.ok _), .new => t.phase = .fresh
    | some (.ok _), .decode .. => s.phase = .fresh ∧ t.phase = .decoded
    | some (.ok _), .encode => s.phase = .fresh ∧ t.phase = .serialized
    | _, _ => t.phase = s.phase

/-- 10_state R35: who sets LENSTALE, who clears it, that nothing else changes it, and that ENCODE requires it to be 0. -/
def Obligations.LengthGoesStaleOnMutationAndFreshOnCompute : Prop :=
  State.reset.lenstale = true ∧
  (∀ (s : State) (rest : List Input), s.inputs = .reset :: rest → ∃ t, step s = .next t ∧ t.lenstale = true) ∧
  (∀ s t : State, exec .encode s = .next t → t.resp = some (.ok .empty) → s.lenstale = false) ∧
  ∀ (i : Instr) (s t : State), Command i → exec i s = .next t →
    match t.resp, i with
    | some (.ok _), .new => t.lenstale = true
    | some (.ok _), .setflags _ => t.lenstale = true
    | some (.ok _), .setpad _ => t.lenstale = true
    | some (.ok _), .setprio .. => t.lenstale = true
    | some (.ok _), .setblocks _ => t.lenstale = true
    | some (.ok _), .complen => t.lenstale = false
    | some (.ok _), .decode .. => t.lenstale = false
    | _, _ => t.lenstale = s.lenstale

/-! ### Construction, setters -/

/-- 44_frame_fields R180: NEW in every phase: the frame registers, LENSTALE, PHASE and FCAUSE; not FSR, not the streams. -/
def Obligations.NewConstructsAFreshFrame : Prop :=
  (∀ (x y z : Word) (blk : List Slice), decode (.command (word 0x00 x y z) blk) = .ok .new) ∧
  ∀ s : State, ∃ x n, exec .new s = .next
    { s with
      flags := 0x00#8, len := 0#24, lenstale := true, sid := x, pad := 0#8, prio := none, hblk := none, hlen := none
      phase := .fresh, fcause := none, draws := n, resp := some (.ok .empty) }

/-- 44_frame_fields R181: SETFLAGS. -/
def Obligations.SetflagsWritesTheWholeFlagsByte : Prop :=
  (∀ (f x y : Word) (blk : List Slice), decode (.command (word 0x01 f x y) blk) = .ok (.setflags f)) ∧
  (∀ (f : Word) (s : State), s.phase ≠ .fresh → exec (.setflags f) s = .next (violation s .badPhase)) ∧
  (∀ (f : Word) (s : State), s.phase = .fresh → f.toInt < 0 ∨ 255 < f.toInt →
    exec (.setflags f) s = .next (violation s .range)) ∧
  (∀ (f : Word) (s : State), s.phase = .fresh → 0 ≤ f.toInt → f.toInt ≤ 255 →
    exec (.setflags f) s = .next
      { s with flags := BitVec.ofNat 8 f.toNat, lenstale := true, resp := some (.ok .empty) })

/-- 44_frame_fields R182: SETSID; LENSTALE is not changed. -/
def Obligations.SetsidWritesTheStreamIdentifier : Prop :=
  (∀ (i x y : Word) (blk : List Slice), decode (.command (word 0x02 i x y) blk) = .ok (.setsid i)) ∧
  (∀ (i : Word) (s : State), s.phase ≠ .fresh → exec (.setsid i) s = .next (violation s .badPhase)) ∧
  (∀ (i : Word) (s : State), s.phase = .fresh → i.toInt < 0 → exec (.setsid i) s = .next (violation s .range)) ∧
  (∀ (i : Word) (s : State), s.phase = .fresh → 0 ≤ i.toInt →
    exec (.setsid i) s = .next { s with sid := BitVec.ofNat 31 i.toNat, resp := some (.ok .empty) })

/-- 44_frame_fields R183: SETPAD; FLAGS is not changed. -/
def Obligations.SetpadWritesThePadLength : Prop :=
  (∀ (n x y : Word) (blk : List Slice), decode (.command (word 0x03 n x y) blk) = .ok (.setpad n)) ∧
  (∀ (n : Word) (s : State), s.phase ≠ .fresh → exec (.setpad n) s = .next (violation s .badPhase)) ∧
  (∀ (n : Word) (s : State), s.phase = .fresh → n.toInt < 0 ∨ 255 < n.toInt →
    exec (.setpad n) s = .next (violation s .range)) ∧
  (∀ (n : Word) (s : State), s.phase = .fresh → 0 ≤ n.toInt → n.toInt ≤ 255 →
    exec (.setpad n) s = .next
      { s with pad := BitVec.ofNat 8 n.toNat, lenstale := true, resp := some (.ok .empty) })

/-- 44_frame_fields R184: SETPRIO, the three fields together; FLAGS is not changed. -/
def Obligations.SetprioWritesThePriorityGroup : Prop :=
  (∀ (d e g : Word) (blk : List Slice), decode (.command (word 0x04 d e g) blk) = .ok (.setprio d e g)) ∧
  (∀ (d e g : Word) (s : State), s.phase ≠ .fresh → exec (.setprio d e g) s = .next (violation s .badPhase)) ∧
  (∀ (d e g : Word) (s : State), s.phase = .fresh →
    d.toInt < 0 ∨ e.toInt < 0 ∨ 1 < e.toInt ∨ g.toInt < 0 ∨ 255 < g.toInt →
    exec (.setprio d e g) s = .next (violation s .range)) ∧
  (∀ (d e g : Word) (s : State), s.phase = .fresh → 0 ≤ d.toInt → 0 ≤ e.toInt → e.toInt ≤ 1 → 0 ≤ g.toInt →
    g.toInt ≤ 255 →
    exec (.setprio d e g) s = .next
      { s with
        prio := some ⟨e.toNat == 1, BitVec.ofNat 31 d.toNat, BitVec.ofNat 8 g.toNat⟩
        lenstale := true, resp := some (.ok .empty) })

/-- 44_frame_fields R185: SETBLOCKS, HBLK and HLEN in the same transition, no size check. -/
def Obligations.SetblocksWritesBlocksAndTheirSize : Prop :=
  (∀ (x y z : Word) (blk : List Slice), decode (.command (word 0x05 x y z) blk) = .ok (.setblocks blk)) ∧
  (∀ (b : List Slice) (s : State), s.phase ≠ .fresh → exec (.setblocks b) s = .next (violation s .badPhase)) ∧
  (∀ (b : List Slice) (s : State), s.phase = .fresh →
    exec (.setblocks b) s = .next
      { s with
        hblk := some b, hlen := some (b.map List.length).sum, lenstale := true, resp := some (.ok .empty) })

/-! ### Getters, status, flag queries -/

/-- 44_frame_fields R186 to R189: GETTYPE, GETFLAGS, GETLEN, GETSID return their register and change nothing; in FAULTED
they raise BAD_PHASE. -/
def Obligations.PlainGettersReturnTheirRegister : Prop :=
  (∀ (x y z : Word) (blk : List Slice),
    decode (.command (word 0x10 x y z) blk) = .ok .gettype ∧
    decode (.command (word 0x11 x y z) blk) = .ok .getflags ∧
    decode (.command (word 0x12 x y z) blk) = .ok .getlen ∧
    decode (.command (word 0x13 x y z) blk) = .ok .getsid) ∧
  (∀ s : State, s.phase = .faulted →
    exec .gettype s = .next (violation s .badPhase) ∧ exec .getflags s = .next (violation s .badPhase) ∧
    exec .getlen s = .next (violation s .badPhase) ∧ exec .getsid s = .next (violation s .badPhase)) ∧
  (∀ s : State, s.phase ≠ .faulted →
    exec .gettype s = .next (answered s (.typeTag 1#8)) ∧ exec .getflags s = .next (answered s (.flags s.flags)) ∧
    exec .getlen s = .next (answered s (.lenAndStale s.len s.lenstale)) ∧
    exec .getsid s = .next (answered s (.sid s.sid)))

/-- 44_frame_fields R190, 10_state R32: GETPAD returns the effective pad length, 0 while PADDED is unset. -/
def Obligations.GetpadReturnsTheEffectivePadLength : Prop :=
  (∀ (x y z : Word) (blk : List Slice),
    decode (.command (word 0x14 x y z) blk) = .ok .getpad) ∧
  (∀ s : State, s.phase = .faulted → exec .getpad s = .next (violation s .badPhase)) ∧
  (∀ s : State, s.phase ≠ .faulted → Padded s.flags → exec .getpad s = .next (answered s (.pad s.pad))) ∧
  (∀ s : State, s.phase ≠ .faulted → ¬ Padded s.flags → exec .getpad s = .next (answered s (.pad 0#8)))

/-- 44_frame_fields R191: GETPRIO returns the effective priority. -/
def Obligations.GetprioReturnsTheEffectivePriority : Prop :=
  (∀ (x y z : Word) (blk : List Slice),
    decode (.command (word 0x15 x y z) blk) = .ok .getprio) ∧
  (∀ s : State, s.phase = .faulted → exec .getprio s = .next (violation s .badPhase)) ∧
  (∀ s : State, s.phase ≠ .faulted → ¬ Priority s.flags → exec .getprio s = .next (answered s (.prio none))) ∧
  (∀ s : State, s.phase ≠ .faulted → Priority s.flags → s.prio = none →
    exec .getprio s = .next (violation s .unsetField)) ∧
  (∀ (s : State) (p : Prio), s.phase ≠ .faulted → Priority s.flags → s.prio = some p →
    exec .getprio s = .next (answered s (.prio (some p))))

/-- 44_frame_fields R192, R193: GETHLEN and GETBLOCKS return what SETBLOCKS or DECODE gave, and fault UNSET_FIELD before. -/
def Obligations.GethlenAndGetblocksReturnTheHeaderBlock : Prop :=
  (∀ (x y z : Word) (blk : List Slice),
    decode (.command (word 0x16 x y z) blk) = .ok .gethlen ∧
    decode (.command (word 0x17 x y z) blk) = .ok .getblocks) ∧
  (∀ s : State, s.phase = .faulted →
    exec .gethlen s = .next (violation s .badPhase) ∧ exec .getblocks s = .next (violation s .badPhase)) ∧
  (∀ s : State, s.phase ≠ .faulted → s.hlen = none → exec .gethlen s = .next (violation s .unsetField)) ∧
  (∀ (s : State) (n : Nat), s.phase ≠ .faulted → s.hlen = some n →
    exec .gethlen s = .next (answered s (.headerLength n))) ∧
  (∀ s : State, s.phase ≠ .faulted → s.hblk = none → exec .getblocks s = .next (violation s .unsetField)) ∧
  (∀ (s : State) (b : List Slice), s.phase ≠ .faulted → s.hblk = some b →
    exec .getblocks s = .next (answered s (.blocks b)))

/-- 44_frame_fields R194: GETSTATUS in every phase. -/
def Obligations.GetstatusReturnsTheStatusGroup : Prop :=
  (∀ (x y z : Word) (blk : List Slice),
    decode (.command (word 0x1C x y z) blk) = .ok .getstatus) ∧
  ∀ s : State, exec .getstatus s = .next (answered s (.status s.phase s.lenstale s.fsr s.fcause))

/-- 43_flag_queries R171 to R173: ENDHDRS, ISPADDED, HASPRIO. -/
def Obligations.FlagPredicatesTestTheirBit : Prop :=
  (∀ (x y z : Word) (blk : List Slice),
    decode (.command (word 0x1A x y z) blk) = .ok .endhdrs ∧
    decode (.command (word 0x18 x y z) blk) = .ok .ispadded ∧
    decode (.command (word 0x19 x y z) blk) = .ok .hasprio) ∧
  (∀ s : State, s.phase = .faulted →
    exec .endhdrs s = .next (violation s .badPhase) ∧ exec .ispadded s = .next (violation s .badPhase) ∧
    exec .hasprio s = .next (violation s .badPhase)) ∧
  (∀ s : State, s.phase ≠ .faulted →
    exec .endhdrs s = .next (answered s (.boolean (decide (EndHeaders s.flags)))) ∧
    exec .ispadded s = .next (answered s (.boolean (decide (Padded s.flags)))) ∧
    exec .hasprio s = .next (answered s (.boolean (decide (Priority s.flags)))))

/-- 43_flag_queries R170: FLAGNAME matches the whole operand, in every phase; every value that is not one of the four goes
to the base's lookup, whose answer is open but is a function of the operand alone. Each name is spelled as text by its constructor's name. -/
def Obligations.FlagnameNamesTheFourFlags : Prop :=
  (∀ (b y z : Word) (blk : List Slice), decode (.command (word 0x1B b y z) blk) = .ok (.flagname b)) ∧
  (∀ s : State,
    exec (.flagname 0x01#32) s = .next (answered s (.name .endStream)) ∧
    exec (.flagname 0x08#32) s = .next (answered s (.name .padded)) ∧
    exec (.flagname 0x20#32) s = .next (answered s (.name .priority)) ∧
    exec (.flagname 0x04#32) s = .next (answered s (.name (.base .endHeaders)))) ∧
  (FlagName.endStream.text = "END_STREAM" ∧ FlagName.padded.text = "PADDED" ∧ FlagName.priority.text = "PRIORITY" ∧
    (FlagName.base .endHeaders).text = "END_HEADERS") ∧
  (∀ b : Word, b ≠ 0x01#32 → b ≠ 0x08#32 → b ≠ 0x20#32 →
    ∃ name, ∀ s : State, exec (.flagname b) s = .next (answered s (.name (.base name))))

/-! ### COMPLEN and ENCODE -/

/-- 41_length R150: COMPLEN stores and returns ExpLen, in the natural numbers; its three faults. -/
def Obligations.ComplenStoresTheExpectedLength : Prop :=
  (∀ (x y z : Word) (blk : List Slice), decode (.command (word 0x21 x y z) blk) = .ok .complen) ∧
  (∀ s : State, s.phase ≠ .fresh → exec .complen s = .next (violation s .badPhase)) ∧
  (∀ s : State, s.phase = .fresh → s.hblk = none → exec .complen s = .next (violation s .unsetField)) ∧
  (∀ (s : State) (h : Nat), s.phase = .fresh → s.hblk ≠ none → s.hlen = some h →
    16777215 < expectedLength s.flags s.pad h → exec .complen s = .next (violation s .lenOverflow)) ∧
  (∀ (s : State) (h : Nat), s.phase = .fresh → s.hblk ≠ none → s.hlen = some h →
    expectedLength s.flags s.pad h ≤ 16777215 →
    ∃ n : Len, n.toNat = expectedLength s.flags s.pad h ∧
      exec .complen s = .next { s with len := n, lenstale := false, resp := some (.ok (.length n)) })

/-- 42_encode R160: the three checks in their order, and otherwise, on a fresh frame with an up-to-date length, the header and
the payload appended field by field (R162: gated fields add nothing, padding is zero) and slice by slice (R165), nothing
else changed but PHASE. -/
def Obligations.EncodeAppendsTheFrameInWireOrder : Prop :=
  (∀ (x y z : Word) (blk : List Slice), decode (.command (word 0x22 x y z) blk) = .ok .encode) ∧
  (∀ s : State, s.phase ≠ .fresh → exec .encode s = .next (violation s .badPhase)) ∧
  (∀ s : State, s.phase = .fresh → s.lenstale = true → exec .encode s = .next (violation s .lenStale)) ∧
  (∀ s : State, s.phase = .fresh → s.lenstale = false → Priority s.flags → s.prio = none →
    exec .encode s = .next (violation s .unsetField)) ∧
  ∀ (s : State) (b : List Slice), s.phase = .fresh → s.lenstale = false → s.hblk = some b →
    (Priority s.flags → s.prio ≠ none) →
    exec .encode s = .next
      { s with
        wr := ⟨s.wr.segs ++ encodedSegs s b,
          s.wr.pos + ((encodedSegs s b).map fun g => g.content.length).sum⟩
        phase := .serialized, resp := some (.ok .empty) }

/-- 42_encode R163: ENCODE is atomic: either it faults and OUT is unchanged, or it succeeds and the whole frame is in OUT.
The invariant, which every step keeps, rules out the up-to-date frame without a header block, which R160 says cannot
occur. -/
def Obligations.EncodeIsAllOrNothing : Prop :=
  ∀ s : State, s.Inv → ∃ t, exec .encode s = .next t ∧
    ((∃ c, t.resp = some (.fault c) ∧ t.wr = s.wr) ∨
      (t.resp = some (.ok .empty) ∧ ∃ b, s.hblk = some b ∧ t.wr.segs = s.wr.segs ++ encodedSegs s b))

/-- 42_encode R161: after the header bytes a successful ENCODE appends exactly LEN bytes. -/
def Obligations.EncodeEmitsExactlyTheDeclaredLength : Prop :=
  ∀ s t : State, s.Inv → exec .encode s = .next t → t.resp = some (.ok .empty) →
    ∃ body, t.wr.content = s.wr.content ++ Config.frameHeader 1#8 s.flags s.len s.sid ++ body ∧
      body.length = s.len.toNat ∧ t.wr.pos = s.wr.pos + (Config.frameHeader 1#8 s.flags s.len s.sid).length + s.len.toNat

/-- 41_length R152: if COMPLEN returns n and only reads come between, ENCODE appends exactly n payload bytes, or faults and
appends nothing. -/
def Obligations.ComputedLengthIsTheEmittedLength : Prop :=
  ∀ (s t u v : State) (n : Len) (reads : List Instr), s.HeaderLengthInv → exec .complen s = .next t →
    t.resp = some (.ok (.length n)) → (∀ i ∈ reads, onlyReads i = true) → execAll reads t = .next u →
    exec .encode u = .next v →
    (v.resp = some (.ok .empty) ∧
      ∃ body, v.wr.content = s.wr.content ++ Config.frameHeader 1#8 s.flags n s.sid ++ body ∧ body.length = n.toNat) ∨
    (∃ c, v.resp = some (.fault c) ∧ v.wr = s.wr)

/-- 42_encode R164: the pack mode changes the four bytes of the priority word, which stand after the frame header and the Pad
Length, from `Pack` in one mode to `Pack` in the other, and nothing else: no other byte, register, stream or status and no
fault. With EXCL = 0, with no priority block, or where ENCODE faults, nothing at all. -/
def Obligations.PackModeChangesOnlyThePriorityWord : Prop :=
  ∀ (s : State) (m : PackMode), ∃ t u, exec .encode s = .next t ∧ exec .encode { s with packMode := m } = .next u ∧
    u = { t with packMode := m, wr := u.wr } ∧ u.wr.pos = t.wr.pos ∧
    (∀ p, t.resp = some (.ok .empty) → Priority s.flags → s.prio = some p → ∃ post,
      t.wr.content = s.wr.content ++ Config.frameHeader 1#8 s.flags s.len s.sid ++
        (if Padded s.flags then [s.pad] else []) ++ wordBytes (packNat s.packMode p.excl p.sdep.toNat) ++ post ∧
      u.wr.content = s.wr.content ++ Config.frameHeader 1#8 s.flags s.len s.sid ++
        (if Padded s.flags then [s.pad] else []) ++ wordBytes (packNat m p.excl p.sdep.toNat) ++ post) ∧
    ((t.resp ≠ some (.ok .empty) ∨ ¬ Priority s.flags ∨ ∀ p, s.prio = some p → p.excl = false) → u.wr = t.wr)

/-! ### DECODE -/

/-- 40_decode R140 lines 1 to 3: the checks before any byte is read; the reader is not poisoned by them (R145). -/
def Obligations.DecodeChecksPhasePoisonAndOperandsFirst : Prop :=
  (∀ (f l i : Word) (blk : List Slice), decode (.command (word 0x20 f l i) blk) = .ok (.decode f l i)) ∧
  (∀ (f l i : Word) (s : State), s.phase ≠ .fresh → exec (.decode f l i) s = .next (violation s .badPhase)) ∧
  (∀ (f l i : Word) (s : State), s.phase = .fresh → s.rd.poisoned = true →
    exec (.decode f l i) s = .next (violation s .rdPoisoned)) ∧
  (∀ (f l i : Word) (s : State), s.phase = .fresh → s.rd.poisoned = false → ¬ DecodeOperands f l i →
    exec (.decode f l i) s = .next (violation s .range))

/-- 40_decode R140 lines 4 to 11, R142, R143: on a stream that holds a payload in the layout of its flags, DECODE completes,
the registers are its fields, exactly L bytes are consumed, in any chunking, for any bytes of padding. -/
def Obligations.DecodeReadsTheFieldsOfThePayload : Prop :=
  ∀ (s : State) (f l i : Word) (pad : Byte) (p : Prio) (fragment padding rest : List Byte), DecodeStarts s f l i →
    padding.length = pad.toNat →
    s.rd.buf.flatten = payload .or (BitVec.ofNat 8 f.toNat) pad p fragment padding ++ rest →
    (payload .or (BitVec.ofNat 8 f.toNat) pad p fragment padding).length = l.toNat →
    ∃ blocks buf n, concat blocks = fragment ∧ buf.flatten = rest ∧
      exec (.decode f l i) s = .next
        { s with
          flags := BitVec.ofNat 8 f.toNat
          len := BitVec.ofNat 24 l.toNat
          sid := BitVec.ofNat 31 i.toNat
          pad := if Padded (BitVec.ofNat 8 f.toNat) then pad else 0#8
          prio := if Priority (BitVec.ofNat 8 f.toNat) then some p else none
          hblk := some blocks
          hlen := some fragment.length
          lenstale := false
          phase := .decoded
          rd := { s.rd with buf := buf, pos := s.rd.pos + l.toNat }
          draws := n
          resp := some (.ok .empty) }

/-- 60_exceptions R223, 40_decode R140, R145: a declared length too small for its own fields is MalformedFrame, raised at
once, open stream or closed, with the sub-code and the bytes consumed that the order of the lines gives. -/
def Obligations.TooSmallALengthIsMalformedAtOnce : Prop :=
  ∀ (s : State) (f l i : Word) (sub : MalformedSub) (k : Nat), DecodeStarts s f l i →
    ending (BitVec.ofNat 8 f.toNat) l.toNat s.rd.buf.flatten = .malformed sub k →
    ∃ t, exec (.decode f l i) s = .next t ∧ StreamFaulted s (.malformedFrame sub) k t

/-- 60_exceptions R221, 40_decode R145: a read that wants bytes a closed stream does not have is TruncatedInput, with the
sub-code of that read; what was consumed before stays consumed. -/
def Obligations.AClosedShortStreamIsTruncatedInput : Prop :=
  ∀ (s : State) (f l i : Word) (sub : TruncatedSub) (k : Nat), DecodeStarts s f l i → s.rd.closed = true →
    ending (BitVec.ofNat 8 f.toNat) l.toNat s.rd.buf.flatten = .missing sub k →
    ∃ t, exec (.decode f l i) s = .next t ∧ StreamFaulted s (.truncatedInput sub) k t

/-- 40_decode R141: the same read on an open stream holds the command: no register, no status bit and no part of rd has
changed; the command is pending and there is no response (the form of both is the model's, log 9 and 11). -/
def Obligations.AnOpenShortStreamHoldsTheDecode : Prop :=
  ∀ (s : State) (f l i : Word) (sub : TruncatedSub) (k : Nat), DecodeStarts s f l i → s.rd.closed = false →
    ending (BitVec.ofNat 8 f.toNat) l.toNat s.rd.buf.flatten = .missing sub k →
    exec (.decode f l i) s = .next { s with held := some ⟨f, l, i⟩, resp := none }

/-- 40_decode R144: two inputs that differ only in padding bytes decode to equal frames. -/
def Obligations.PaddingBytesDoNotMatter : Prop :=
  ∀ (s : State) (f l i : Word) (buf1 buf2 : List (List Byte)) (pad : Byte) (p : Prio)
    (fragment padding1 padding2 rest : List Byte), DecodeStarts s f l i →
    padding1.length = pad.toNat → padding2.length = pad.toNat →
    (payload .or (BitVec.ofNat 8 f.toNat) pad p fragment padding1).length = l.toNat →
    buf1.flatten = payload .or (BitVec.ofNat 8 f.toNat) pad p fragment padding1 ++ rest →
    buf2.flatten = payload .or (BitVec.ofNat 8 f.toNat) pad p fragment padding2 ++ rest →
    ∃ t u, exec (.decode f l i) { s with rd := { s.rd with buf := buf1 } } = .next t ∧
      exec (.decode f l i) { s with rd := { s.rd with buf := buf2 } } = .next u ∧
      t.phase = .decoded ∧ u.phase = .decoded ∧ SameFrame t u ∧ u.rd.pos = t.rd.pos

/-- 20_memory R61: chunk boundaries carry no meaning: the same bytes in other chunks end DECODE the same way, but for the
chunks left in the stream. -/
def Obligations.ChunkBoundariesCarryNoMeaning : Prop :=
  ∀ (s : State) (f l i : Word) (buf1 buf2 : List (List Byte)), buf1.flatten = buf2.flatten →
    ∃ t u, exec (.decode f l i) { s with rd := { s.rd with buf := buf1 } } = .next t ∧
      exec (.decode f l i) { s with rd := { s.rd with buf := buf2 } } = .next u ∧
      u.rd.buf.flatten = t.rd.buf.flatten ∧ t.hblk.map concat = u.hblk.map concat ∧
      { u with rd := { u.rd with buf := [] }, hblk := none } = { t with rd := { t.rd with buf := [] }, hblk := none }

/-- 40_decode R146: the round trip. A fresh frame with legal values and an up-to-date length, encoded with PACK_MODE = OR,
is decoded from its payload bytes, in any chunking, to an equal frame, and exactly those bytes are consumed. -/
def Obligations.DecodeOfEncodeIsTheSameFrame : Prop :=
  ∀ a : State, a.Inv → a.phase = .fresh → a.lenstale = false → (Priority a.flags → a.prio ≠ none) → a.packMode = .or →
    ∃ t body, exec .encode a = .next t ∧
      t.wr.content = a.wr.content ++ Config.frameHeader 1#8 a.flags a.len a.sid ++ body ∧
      ∀ (b : State) (rest : List Byte), b.phase = .fresh → b.rd.poisoned = false → b.rd.buf.flatten = body ++ rest →
        ∃ u, exec (.decode (BitVec.ofNat 32 a.flags.toNat) (BitVec.ofNat 32 a.len.toNat) (BitVec.ofNat 32 a.sid.toNat)) b
            = .next u ∧
          u.phase = .decoded ∧ SameFrame a u ∧ u.rd.buf.flatten = rest ∧ u.rd.pos = b.rd.pos + body.length

/-! ### The codec and the priority word -/

/-- 20_memory R86: reading what was written gives it back, and writing what was read writes it back, for 32-bit big-endian
integers and for bytes. -/
def Obligations.IntegerCodecRoundTrips : Prop :=
  (∀ (v : Word) (wr : Wr), (wr.putU32BE v).content = wr.content ++ wordBytes v.toNat) ∧
  (∀ (v : Word) (rd : Rd) (rest : List Byte), rd.buf.flatten = wordBytes v.toNat ++ rest →
    ∃ rd', rd.rdU32BE = .done v rd' ∧ rd'.buf.flatten = rest ∧ rd'.pos = rd.pos + 4) ∧
  (∀ (b0 b1 b2 b3 : Byte) (rd : Rd) (rest : List Byte), rd.buf.flatten = b0 :: b1 :: b2 :: b3 :: rest →
    ∃ v rd', rd.rdU32BE = .done v rd' ∧
      v.toNat = 2 ^ 24 * b0.toNat + 2 ^ 16 * b1.toNat + 2 ^ 8 * b2.toNat + b3.toNat ∧
      wordBytes v.toNat = [b0, b1, b2, b3]) ∧
  (∀ (v : Byte) (wr : Wr) (rd : Rd) (rest : List Byte), (wr.putU8 v).content = wr.content ++ [v] ∧
    (rd.buf.flatten = v :: rest → ∃ rd', rd.rdU8 = .done v rd' ∧ rd'.buf.flatten = rest ∧ rd'.pos = rd.pos + 1))

/-- 30_encoding R109, R110: Unpack and Pack (mode OR) as numbers, and that Unpack undoes Pack. -/
def Obligations.UnpackUndoesPackInModeOr : Prop :=
  (∀ w : Word, (unpack w).1 = decide (2 ^ 31 ≤ w.toNat) ∧ (unpack w).2.toNat = w.toNat % 2 ^ 31) ∧
  (∀ (e : Bool) (d : Sdep), (pack .or e d).toNat = (if e then 2 ^ 31 else 0) + d.toNat) ∧
  (∀ (e : Bool) (d : Sdep), unpack (pack .or e d) = (e, d))

/-- 30_encoding R111: Pack in mode SHIFT_COMPAT, and what it unpacks to. -/
def Obligations.ShiftCompatPackSetsOneBit : Prop :=
  (∀ d : Sdep, (pack .shiftCompat false d).toNat = d.toNat) ∧
  (∀ d : Sdep, (pack .shiftCompat true d).toNat = 2 ^ ((31 + d.toNat) % 32)) ∧
  (∀ d : Sdep, d.toNat % 32 = 0 → unpack (pack .shiftCompat true d) = (true, 0)) ∧
  (∀ (d : Sdep) (k : Nat), d.toNat % 32 = k → 1 ≤ k →
    unpack (pack .shiftCompat true d) = (false, BitVec.ofNat 31 (2 ^ (k - 1))))

/-! ### The wire rows -/

/-- The wire rows of the table (30_encoding R102 to R105, R108): the environment's delivery of exactly the bytes of the
layout, while the stream is open (20_memory R85); the model's choice of an effect for rows that are no commands, log 15. -/
def Obligations.WireRowsDeliverTheBytesOfTheirLayout : Prop :=
  ∀ (i : Instr) (s : State), i.isWire = true → WellFormed i →
    (s.rd.closed = false → wireImage i ≠ [] →
      exec i s = .next { s with rd := { s.rd with buf := s.rd.buf ++ [wireImage i] } }) ∧
    (s.rd.closed = false → wireImage i = [] → exec i s = .next s) ∧
    (s.rd.closed = true → exec i s = .refused .appendAfterClose)

/-- FLAGS_BYTE (10_state R22): the byte the host supplies has the effect of SETFLAGS with it; the model's choice, log 16. -/
def Obligations.FlagsByteActsAsSetflags : Prop :=
  (∀ (f : Byte) (s : State), s.phase = .fresh →
    exec (.flagsByte f) s = .next { s with flags := f, lenstale := true, resp := some (.ok .empty) }) ∧
  (∀ (f : Byte) (s : State), s.phase ≠ .fresh → exec (.flagsByte f) s = .next (violation s .badPhase))

/-- 30_encoding R102 to R105 end to end: a payload row delivered to an empty, open stream, and then DECODE with its flags
and its length, gives a frame with the fields of the row. That a row arrives on a port of its own and is delivered is the
model's choice, log 15 and 17. -/
def Obligations.ADeliveredPayloadDecodesToItsFields : Prop :=
  ∀ (i : Instr) (s : State) (flags pad : Byte) (prio : Option Prio) (fragment : List Byte) (x : Word) (rest : List Input),
    WellFormed i → payloadFields i = some (flags, pad, prio, fragment) →
    s.phase = .fresh → s.held = none → s.rd.poisoned = false → s.rd.closed = false → s.rd.buf = [] → 0 ≤ x.toInt →
    s.inputs = .raw (encode i) ::
      .raw (.command (word 0x20 (BitVec.ofNat 32 flags.toNat) (BitVec.ofNat 32 (wireImage i).length) x) []) :: rest →
    ∃ t u, step s = .next t ∧ step t = .next u ∧ u.phase = .decoded ∧ u.flags = flags ∧ u.pad = pad ∧ u.prio = prio ∧
      u.hblk.map concat = some fragment ∧ u.hlen = some fragment.length ∧ u.len.toNat = (wireImage i).length ∧
      u.rd.buf = [] ∧ u.inputs = rest

/-! ### The streams -/

/-- 20_memory R62: OUT is append-only: no command rewrites or removes a byte once appended. -/
def Obligations.CommandsOnlyAppendToTheOutput : Prop :=
  ∀ (i : Instr) (s t : State), exec i s = .next t → s.wr.segs <+: t.wr.segs ∧
    t.wr.pos + s.wr.content.length = s.wr.pos + t.wr.content.length

/-- 20_memory R61, R64: reading is forward-only: a command consumes a prefix of the available bytes, of the length by which
the cursor moves, and nothing else of the stream is altered. -/
def Obligations.CommandsOnlyConsumeFromTheFrontOfTheInput : Prop :=
  ∀ (i : Instr) (s t : State), Command i → exec i s = .next t → ∃ n, n ≤ s.rd.buf.flatten.length ∧
    t.rd.pos = s.rd.pos + n ∧ t.rd.buf.flatten = s.rd.buf.flatten.drop n ∧ t.rd.closed = s.rd.closed

/-! ### The pseudo-commands -/

/-- 30_encoding R124, 44_frame_fields R196: BUILD, from any state, on legal values whose length fits, is one-step
construction: a FRESH frame with those values and LENSTALE = 0. -/
def Obligations.BuildConstructsAFrameInOneStep : Prop :=
  ∀ (s : State) (f i : Word) (pad : Option Word) (prio : Option (Word × Word × Word)) (blocks : List Slice),
    0 ≤ f.toInt → f.toInt ≤ 255 → 0 ≤ i.toInt →
    (∀ n, pad = some n → 0 ≤ n.toInt ∧ n.toInt ≤ 255) →
    (∀ d e g, prio = some (d, e, g) → 0 ≤ d.toInt ∧ 0 ≤ e.toInt ∧ e.toInt ≤ 1 ∧ 0 ≤ g.toInt ∧ g.toInt ≤ 255) →
    expectedLength (BitVec.ofNat 8 f.toNat) (BitVec.ofNat 8 (pad.getD 0).toNat) (blocks.map List.length).sum ≤ 16777215 →
    ∃ t, execAll (pseudoBuild f i pad prio blocks) s = .next t ∧
      t.phase = .fresh ∧ t.lenstale = false ∧ t.fcause = none ∧ t.fsr = s.fsr ∧
      t.flags = BitVec.ofNat 8 f.toNat ∧ t.sid = BitVec.ofNat 31 i.toNat ∧
      t.pad = BitVec.ofNat 8 (pad.getD 0).toNat ∧
      t.prio = prio.map (fun q => ⟨q.2.1.toNat == 1, BitVec.ofNat 31 q.1.toNat, BitVec.ofNat 8 q.2.2.toNat⟩) ∧
      t.hblk = some blocks ∧ t.hlen = some (blocks.map List.length).sum ∧
      t.len.toNat = expectedLength t.flags t.pad (blocks.map List.length).sum ∧ t.rd = s.rd ∧ t.wr = s.wr

/-! ### Invariants -/

/-- The invariant holds at reset. -/
def Obligations.InvariantHoldsAtReset : Prop := State.reset.Inv

/-- The whole invariant of the instance is kept by every step, from every state that meets it: INV-HB and INV-LEN
(10_state R31), the status group (R36), the gating of decoded frames (40_decode R143), what a hold implies
(60_exceptions R232), the canonical form of the streams. -/
def Obligations.EveryStepKeepsTheInvariant : Prop :=
  ∀ s t : State, s.Inv → step s = .next t → t.Inv

/-- INV-HB alone (10_state R31): `Size(HBLK) = HLEN` is kept by every step. -/
def Obligations.EveryStepKeepsHeaderLengthEqualToBlockSize : Prop :=
  ∀ s t : State, s.HeaderLengthInv → step s = .next t → t.HeaderLengthInv

/-- The canonical form of the two stream memories alone (log 18) is kept by every step. -/
def Obligations.EveryStepKeepsTheStreamsCanonical : Prop :=
  ∀ s t : State, Memory.wf s → step s = .next t → Memory.wf t
end

