-- ==== Sys2Proof/Laws/Decode.lean ====
section
/-! SUPPORT. The fields of a command word, read back from the word they make; the opcode map looked up at an opcode. -/
namespace Sys2Proof

@[simp] theorem opField_cmdWord (op : Byte) (a0 a1 a2 : Word) : opField (cmdWord op a0 a1 a2) = op := by
  apply BitVec.eq_of_toNat_eq
  simp only [opField, cmdWord, BitVec.extractLsb'_toNat, BitVec.toNat_append, Nat.shiftRight_eq_div_pow]
  have := op.isLt; have := a0.isLt; have := a1.isLt; have := a2.isLt
  rw [← Nat.shiftLeft_add_eq_or_of_lt a0.isLt, ← Nat.shiftLeft_add_eq_or_of_lt a1.isLt,
    ← Nat.shiftLeft_add_eq_or_of_lt a2.isLt]
  simp only [Nat.shiftLeft_eq]
  omega

@[simp] theorem a0Field_cmdWord (op : Byte) (a0 a1 a2 : Word) : a0Field (cmdWord op a0 a1 a2) = a0 := by
  apply BitVec.eq_of_toNat_eq
  simp only [a0Field, cmdWord, BitVec.extractLsb'_toNat, BitVec.toNat_append, Nat.shiftRight_eq_div_pow]
  have := op.isLt; have := a0.isLt; have := a1.isLt; have := a2.isLt
  rw [← Nat.shiftLeft_add_eq_or_of_lt a0.isLt, ← Nat.shiftLeft_add_eq_or_of_lt a1.isLt,
    ← Nat.shiftLeft_add_eq_or_of_lt a2.isLt]
  simp only [Nat.shiftLeft_eq]
  omega

@[simp] theorem a1Field_cmdWord (op : Byte) (a0 a1 a2 : Word) : a1Field (cmdWord op a0 a1 a2) = a1 := by
  apply BitVec.eq_of_toNat_eq
  simp only [a1Field, cmdWord, BitVec.extractLsb'_toNat, BitVec.toNat_append, Nat.shiftRight_eq_div_pow]
  have := op.isLt; have := a0.isLt; have := a1.isLt; have := a2.isLt
  rw [← Nat.shiftLeft_add_eq_or_of_lt a0.isLt, ← Nat.shiftLeft_add_eq_or_of_lt a1.isLt,
    ← Nat.shiftLeft_add_eq_or_of_lt a2.isLt]
  simp only [Nat.shiftLeft_eq]
  omega

@[simp] theorem a2Field_cmdWord (op : Byte) (a0 a1 a2 : Word) : a2Field (cmdWord op a0 a1 a2) = a2 := by
  apply BitVec.eq_of_toNat_eq
  simp only [a2Field, cmdWord, BitVec.extractLsb'_toNat, BitVec.toNat_append, Nat.shiftRight_eq_div_pow]
  have := op.isLt; have := a0.isLt; have := a1.isLt; have := a2.isLt
  rw [← Nat.shiftLeft_add_eq_or_of_lt a0.isLt, ← Nat.shiftLeft_add_eq_or_of_lt a1.isLt,
    ← Nat.shiftLeft_add_eq_or_of_lt a2.isLt]
  simp only [Nat.shiftLeft_eq]
  omega

/-- A word is made of its four fields. -/
theorem cmdWord_fields (w : CmdWord) : cmdWord (opField w) (a0Field w) (a1Field w) (a2Field w) = w := by
  apply BitVec.eq_of_toNat_eq
  simp only [opField, a0Field, a1Field, a2Field, cmdWord, BitVec.extractLsb'_toNat, BitVec.toNat_append,
    Nat.shiftRight_eq_div_pow]
  rw [← Nat.shiftLeft_add_eq_or_of_lt (Nat.mod_lt _ (by decide)), ← Nat.shiftLeft_add_eq_or_of_lt (Nat.mod_lt _ (by decide)),
    ← Nat.shiftLeft_add_eq_or_of_lt (Nat.mod_lt _ (by decide))]
  simp only [Nat.shiftLeft_eq]
  have := w.isLt
  omega

@[simp] theorem length_beBytes (w : Word) : (beBytes w).length = 4 := rfl

end Sys2Proof
end

