-- ==== Sys2Proof/Laws/State.lean ====
section
/-! SUPPORT. One lemma per field per named update of State, true by rfl, so that no proof unfolds a record update. -/
namespace Sys2Proof.Machine

/-! ### `State.respond` -/

@[simp] theorem State.respond_flags (s : State) (v : Value) : (s.respond v).flags = s.flags := rfl
@[simp] theorem State.respond_len (s : State) (v : Value) : (s.respond v).len = s.len := rfl
@[simp] theorem State.respond_sid (s : State) (v : Value) : (s.respond v).sid = s.sid := rfl
@[simp] theorem State.respond_pad (s : State) (v : Value) : (s.respond v).pad = s.pad := rfl
@[simp] theorem State.respond_prio (s : State) (v : Value) : (s.respond v).prio = s.prio := rfl
@[simp] theorem State.respond_hblk (s : State) (v : Value) : (s.respond v).hblk = s.hblk := rfl
@[simp] theorem State.respond_hlen (s : State) (v : Value) : (s.respond v).hlen = s.hlen := rfl
@[simp] theorem State.respond_phase (s : State) (v : Value) : (s.respond v).phase = s.phase := rfl
@[simp] theorem State.respond_lenstale (s : State) (v : Value) : (s.respond v).lenstale = s.lenstale := rfl
@[simp] theorem State.respond_fsr (s : State) (v : Value) : (s.respond v).fsr = s.fsr := rfl
@[simp] theorem State.respond_fcause (s : State) (v : Value) : (s.respond v).fcause = s.fcause := rfl
@[simp] theorem State.respond_rd (s : State) (v : Value) : (s.respond v).rd = s.rd := rfl
@[simp] theorem State.respond_wr (s : State) (v : Value) : (s.respond v).wr = s.wr := rfl
@[simp] theorem State.respond_held (s : State) (v : Value) : (s.respond v).held = s.held := rfl
@[simp] theorem State.respond_resp (s : State) (v : Value) : (s.respond v).resp = some (.ok v) := rfl
@[simp] theorem State.respond_packMode (s : State) (v : Value) : (s.respond v).packMode = s.packMode := rfl
@[simp] theorem State.respond_inputs (s : State) (v : Value) : (s.respond v).inputs = s.inputs := rfl
@[simp] theorem State.respond_draws (s : State) (v : Value) : (s.respond v).draws = s.draws := rfl

/-! ### `State.raise` -/

@[simp] theorem State.raise_flags (s : State) (c : Cause) : (s.raise c).flags = s.flags := rfl
@[simp] theorem State.raise_len (s : State) (c : Cause) : (s.raise c).len = s.len := rfl
@[simp] theorem State.raise_sid (s : State) (c : Cause) : (s.raise c).sid = s.sid := rfl
@[simp] theorem State.raise_pad (s : State) (c : Cause) : (s.raise c).pad = s.pad := rfl
@[simp] theorem State.raise_prio (s : State) (c : Cause) : (s.raise c).prio = s.prio := rfl
@[simp] theorem State.raise_hblk (s : State) (c : Cause) : (s.raise c).hblk = s.hblk := rfl
@[simp] theorem State.raise_hlen (s : State) (c : Cause) : (s.raise c).hlen = s.hlen := rfl
@[simp] theorem State.raise_phase (s : State) (c : Cause) : (s.raise c).phase = .faulted := rfl
@[simp] theorem State.raise_lenstale (s : State) (c : Cause) : (s.raise c).lenstale = s.lenstale := rfl
@[simp] theorem State.raise_fsr (s : State) (c : Cause) : (s.raise c).fsr = s.fsr ||| c.fsrBit := rfl
@[simp] theorem State.raise_fcause (s : State) (c : Cause) : (s.raise c).fcause = s.fcause.or (some c) := rfl
@[simp] theorem State.raise_rd (s : State) (c : Cause) : (s.raise c).rd = s.rd := rfl
@[simp] theorem State.raise_wr (s : State) (c : Cause) : (s.raise c).wr = s.wr := rfl
@[simp] theorem State.raise_held (s : State) (c : Cause) : (s.raise c).held = s.held := rfl
@[simp] theorem State.raise_resp (s : State) (c : Cause) : (s.raise c).resp = some (.fault c) := rfl
@[simp] theorem State.raise_packMode (s : State) (c : Cause) : (s.raise c).packMode = s.packMode := rfl
@[simp] theorem State.raise_inputs (s : State) (c : Cause) : (s.raise c).inputs = s.inputs := rfl
@[simp] theorem State.raise_draws (s : State) (c : Cause) : (s.raise c).draws = s.draws := rfl

/-! ### `State.streamFault` -/

@[simp] theorem State.streamFault_flags (s : State) (rd : Rd) (c : Cause) : (s.streamFault rd c).flags = Config.freeFlags s.draws := rfl
@[simp] theorem State.streamFault_len (s : State) (rd : Rd) (c : Cause) : (s.streamFault rd c).len = Config.freeLen s.draws := rfl
@[simp] theorem State.streamFault_sid (s : State) (rd : Rd) (c : Cause) : (s.streamFault rd c).sid = Config.freeSid s.draws := rfl
@[simp] theorem State.streamFault_pad (s : State) (rd : Rd) (c : Cause) : (s.streamFault rd c).pad = Config.freePad s.draws := rfl
@[simp] theorem State.streamFault_prio (s : State) (rd : Rd) (c : Cause) : (s.streamFault rd c).prio = Config.freePrio s.draws := rfl
@[simp] theorem State.streamFault_hblk (s : State) (rd : Rd) (c : Cause) : (s.streamFault rd c).hblk = Config.freeBlocks s.draws := rfl
@[simp] theorem State.streamFault_hlen (s : State) (rd : Rd) (c : Cause) : (s.streamFault rd c).hlen = (Config.freeBlocks s.draws).map size := rfl
@[simp] theorem State.streamFault_phase (s : State) (rd : Rd) (c : Cause) : (s.streamFault rd c).phase = .faulted := rfl
@[simp] theorem State.streamFault_lenstale (s : State) (rd : Rd) (c : Cause) : (s.streamFault rd c).lenstale = s.lenstale := rfl
@[simp] theorem State.streamFault_fsr (s : State) (rd : Rd) (c : Cause) : (s.streamFault rd c).fsr = s.fsr ||| c.fsrBit := rfl
@[simp] theorem State.streamFault_fcause (s : State) (rd : Rd) (c : Cause) : (s.streamFault rd c).fcause = s.fcause.or (some c) := rfl
@[simp] theorem State.streamFault_rd (s : State) (rd : Rd) (c : Cause) : (s.streamFault rd c).rd = { rd with poisoned := true } := rfl
@[simp] theorem State.streamFault_wr (s : State) (rd : Rd) (c : Cause) : (s.streamFault rd c).wr = s.wr := rfl
@[simp] theorem State.streamFault_held (s : State) (rd : Rd) (c : Cause) : (s.streamFault rd c).held = s.held := rfl
@[simp] theorem State.streamFault_resp (s : State) (rd : Rd) (c : Cause) : (s.streamFault rd c).resp = some (.fault c) := rfl
@[simp] theorem State.streamFault_packMode (s : State) (rd : Rd) (c : Cause) : (s.streamFault rd c).packMode = s.packMode := rfl
@[simp] theorem State.streamFault_inputs (s : State) (rd : Rd) (c : Cause) : (s.streamFault rd c).inputs = s.inputs := rfl
@[simp] theorem State.streamFault_draws (s : State) (rd : Rd) (c : Cause) : (s.streamFault rd c).draws = s.draws + 1 := rfl

/-! ### `State.newFrame` -/

@[simp] theorem State.newFrame_flags (s : State) : (s.newFrame).flags = 0#8 := rfl
@[simp] theorem State.newFrame_len (s : State) : (s.newFrame).len = 0#24 := rfl
@[simp] theorem State.newFrame_sid (s : State) : (s.newFrame).sid = Config.sidDraw s.draws := rfl
@[simp] theorem State.newFrame_pad (s : State) : (s.newFrame).pad = 0#8 := rfl
@[simp] theorem State.newFrame_prio (s : State) : (s.newFrame).prio = none := rfl
@[simp] theorem State.newFrame_hblk (s : State) : (s.newFrame).hblk = none := rfl
@[simp] theorem State.newFrame_hlen (s : State) : (s.newFrame).hlen = none := rfl
@[simp] theorem State.newFrame_phase (s : State) : (s.newFrame).phase = .fresh := rfl
@[simp] theorem State.newFrame_lenstale (s : State) : (s.newFrame).lenstale = true := rfl
@[simp] theorem State.newFrame_fsr (s : State) : (s.newFrame).fsr = s.fsr := rfl
@[simp] theorem State.newFrame_fcause (s : State) : (s.newFrame).fcause = none := rfl
@[simp] theorem State.newFrame_rd (s : State) : (s.newFrame).rd = s.rd := rfl
@[simp] theorem State.newFrame_wr (s : State) : (s.newFrame).wr = s.wr := rfl
@[simp] theorem State.newFrame_held (s : State) : (s.newFrame).held = s.held := rfl
@[simp] theorem State.newFrame_resp (s : State) : (s.newFrame).resp = s.resp := rfl
@[simp] theorem State.newFrame_packMode (s : State) : (s.newFrame).packMode = s.packMode := rfl
@[simp] theorem State.newFrame_inputs (s : State) : (s.newFrame).inputs = s.inputs := rfl
@[simp] theorem State.newFrame_draws (s : State) : (s.newFrame).draws = s.draws + 1 := rfl

/-! ### `State.resetInput` -/

@[simp] theorem State.resetInput_flags (s : State) : (s.resetInput).flags = 0#8 := rfl
@[simp] theorem State.resetInput_len (s : State) : (s.resetInput).len = 0#24 := rfl
@[simp] theorem State.resetInput_sid (s : State) : (s.resetInput).sid = Config.sidDraw s.draws := rfl
@[simp] theorem State.resetInput_pad (s : State) : (s.resetInput).pad = 0#8 := rfl
@[simp] theorem State.resetInput_prio (s : State) : (s.resetInput).prio = none := rfl
@[simp] theorem State.resetInput_hblk (s : State) : (s.resetInput).hblk = none := rfl
@[simp] theorem State.resetInput_hlen (s : State) : (s.resetInput).hlen = none := rfl
@[simp] theorem State.resetInput_phase (s : State) : (s.resetInput).phase = .fresh := rfl
@[simp] theorem State.resetInput_lenstale (s : State) : (s.resetInput).lenstale = true := rfl
@[simp] theorem State.resetInput_fsr (s : State) : (s.resetInput).fsr = 0#3 := rfl
@[simp] theorem State.resetInput_fcause (s : State) : (s.resetInput).fcause = none := rfl
@[simp] theorem State.resetInput_rd (s : State) : (s.resetInput).rd = { buf := [], closed := false, poisoned := false, pos := 0 } := rfl
@[simp] theorem State.resetInput_wr (s : State) : (s.resetInput).wr = { segs := [], pos := 0 } := rfl
@[simp] theorem State.resetInput_held (s : State) : (s.resetInput).held = none := rfl
@[simp] theorem State.resetInput_resp (s : State) : (s.resetInput).resp = none := rfl
@[simp] theorem State.resetInput_packMode (s : State) : (s.resetInput).packMode = s.packMode := rfl
@[simp] theorem State.resetInput_inputs (s : State) : (s.resetInput).inputs = s.inputs := rfl
@[simp] theorem State.resetInput_draws (s : State) : (s.resetInput).draws = s.draws + 1 := rfl

/-! ### `State.endInput` -/

@[simp] theorem State.endInput_flags (s : State) : (s.endInput).flags = s.flags := rfl
@[simp] theorem State.endInput_len (s : State) : (s.endInput).len = s.len := rfl
@[simp] theorem State.endInput_sid (s : State) : (s.endInput).sid = s.sid := rfl
@[simp] theorem State.endInput_pad (s : State) : (s.endInput).pad = s.pad := rfl
@[simp] theorem State.endInput_prio (s : State) : (s.endInput).prio = s.prio := rfl
@[simp] theorem State.endInput_hblk (s : State) : (s.endInput).hblk = s.hblk := rfl
@[simp] theorem State.endInput_hlen (s : State) : (s.endInput).hlen = s.hlen := rfl
@[simp] theorem State.endInput_phase (s : State) : (s.endInput).phase = s.phase := rfl
@[simp] theorem State.endInput_lenstale (s : State) : (s.endInput).lenstale = s.lenstale := rfl
@[simp] theorem State.endInput_fsr (s : State) : (s.endInput).fsr = s.fsr := rfl
@[simp] theorem State.endInput_fcause (s : State) : (s.endInput).fcause = s.fcause := rfl
@[simp] theorem State.endInput_rd (s : State) : (s.endInput).rd = { s.rd with closed := true } := rfl
@[simp] theorem State.endInput_wr (s : State) : (s.endInput).wr = s.wr := rfl
@[simp] theorem State.endInput_held (s : State) : (s.endInput).held = s.held := rfl
@[simp] theorem State.endInput_resp (s : State) : (s.endInput).resp = s.resp := rfl
@[simp] theorem State.endInput_packMode (s : State) : (s.endInput).packMode = s.packMode := rfl
@[simp] theorem State.endInput_inputs (s : State) : (s.endInput).inputs = s.inputs := rfl
@[simp] theorem State.endInput_draws (s : State) : (s.endInput).draws = s.draws := rfl

/-! ### `State.drain` -/

@[simp] theorem State.drain_flags (s : State) (k : Nat) : (s.drain k).flags = s.flags := rfl
@[simp] theorem State.drain_len (s : State) (k : Nat) : (s.drain k).len = s.len := rfl
@[simp] theorem State.drain_sid (s : State) (k : Nat) : (s.drain k).sid = s.sid := rfl
@[simp] theorem State.drain_pad (s : State) (k : Nat) : (s.drain k).pad = s.pad := rfl
@[simp] theorem State.drain_prio (s : State) (k : Nat) : (s.drain k).prio = s.prio := rfl
@[simp] theorem State.drain_hblk (s : State) (k : Nat) : (s.drain k).hblk = s.hblk := rfl
@[simp] theorem State.drain_hlen (s : State) (k : Nat) : (s.drain k).hlen = s.hlen := rfl
@[simp] theorem State.drain_phase (s : State) (k : Nat) : (s.drain k).phase = s.phase := rfl
@[simp] theorem State.drain_lenstale (s : State) (k : Nat) : (s.drain k).lenstale = s.lenstale := rfl
@[simp] theorem State.drain_fsr (s : State) (k : Nat) : (s.drain k).fsr = s.fsr := rfl
@[simp] theorem State.drain_fcause (s : State) (k : Nat) : (s.drain k).fcause = s.fcause := rfl
@[simp] theorem State.drain_rd (s : State) (k : Nat) : (s.drain k).rd = s.rd := rfl
@[simp] theorem State.drain_wr (s : State) (k : Nat) : (s.drain k).wr = { s.wr with segs := drainSegs k s.wr.segs } := rfl
@[simp] theorem State.drain_held (s : State) (k : Nat) : (s.drain k).held = s.held := rfl
@[simp] theorem State.drain_resp (s : State) (k : Nat) : (s.drain k).resp = s.resp := rfl
@[simp] theorem State.drain_packMode (s : State) (k : Nat) : (s.drain k).packMode = s.packMode := rfl
@[simp] theorem State.drain_inputs (s : State) (k : Nat) : (s.drain k).inputs = s.inputs := rfl
@[simp] theorem State.drain_draws (s : State) (k : Nat) : (s.drain k).draws = s.draws := rfl

end Sys2Proof.Machine
end

