-- ==== Sys2Proof/Laws/Ops.lean ====
section
/-! SUPPORT. What each shared operation can do, said once. -/
namespace Sys2Proof.Machine

/-! ### The phase checks -/

theorem State.ifFresh_cases (s body : State) :
    (s.phase = .fresh ∧ s.ifFresh body = body) ∨
      (s.phase ≠ .fresh ∧ s.ifFresh body = s.raise (.contractViolation .badPhase)) := by
  by_cases h : s.phase = .fresh <;> simp [State.ifFresh, h]

theorem State.ifReadable_cases (s body : State) :
    (s.phase ≠ .faulted ∧ s.ifReadable body = body) ∨
      (s.phase = .faulted ∧ s.ifReadable body = s.raise (.contractViolation .badPhase)) := by
  by_cases h : s.phase = .faulted <;> simp [State.ifReadable, h]

@[simp] theorem State.ifFresh_of_fresh {s body : State} (h : s.phase = .fresh) : s.ifFresh body = body := by
  simp [State.ifFresh, h]

@[simp] theorem State.ifReadable_of_ne {s body : State} (h : s.phase ≠ .faulted) : s.ifReadable body = body := by
  simp [State.ifReadable, h]

/-! ### Reading (20_memory R64) -/

theorem flatten_dropChunks (n : Nat) (buf : List (List Byte)) : (dropChunks n buf).flatten = buf.flatten.drop n := by
  induction buf generalizing n with
  | nil => simp [dropChunks]
  | cons c cs ih =>
    unfold dropChunks
    split
    · next h => simp [h]
    · split
      · next h => simp [ih, List.drop_append, List.drop_eq_nil_of_le h]
      · next h => simp [List.drop_append, Nat.sub_eq_zero_of_le (Nat.le_of_not_le h)]

theorem dropChunks_keeps_nonempty (n : Nat) (buf : List (List Byte)) (h : ∀ c ∈ buf, c ≠ []) :
    ∀ c ∈ dropChunks n buf, c ≠ [] := by
  induction buf generalizing n with
  | nil => simp [dropChunks]
  | cons c cs ih =>
    unfold dropChunks
    split
    · exact h
    · split
      · exact ih _ fun d hd => h d (List.mem_cons_of_mem _ hd)
      · next hle =>
        intro d hd
        rcases List.mem_cons.1 hd with rfl | hd
        · simpa using hle
        · exact h d (List.mem_cons_of_mem _ hd)

/-- A read that is done took exactly the next `n` bytes and left everything else of the stream as it was. -/
theorem Rd.memRead_done {rd rd' : Rd} {n : Nat} {b : List Byte} (h : rd.memRead n = .done b rd') :
    n ≤ rd.avail.length ∧ b = rd.avail.take n ∧ rd'.avail = rd.avail.drop n ∧ rd'.pos = rd.pos + n ∧
      rd'.closed = rd.closed ∧ rd'.poisoned = rd.poisoned := by
  unfold Rd.memRead at h
  split at h
  · next h0 => cases h; simp [h0]
  · split at h
    · next hn => cases h; exact ⟨hn, rfl, by simp [Rd.avail, flatten_dropChunks], rfl, rfl, rfl⟩
    · split at h <;> cases h

theorem Rd.memRead_keeps_wf {rd rd' : Rd} {n : Nat} {b : List Byte} (h : rd.memRead n = .done b rd') (hw : rd.wf) :
    rd'.wf := by
  unfold Rd.memRead at h
  split at h
  · cases h; exact hw
  · split at h
    · cases h; exact dropChunks_keeps_nonempty n rd.buf hw
    · split at h <;> cases h

/-- A read is short exactly when bytes are missing and the stream is closed. -/
theorem Rd.memRead_short_iff (rd : Rd) (n : Nat) :
    rd.memRead n = .short ↔ rd.avail.length < n ∧ rd.closed = true := by
  unfold Rd.memRead
  split
  · next h => simp [h]
  · split
    · next h => simp; omega
    · next h => split <;> simp_all

/-- A read holds exactly when bytes are missing and the stream is open. -/
theorem Rd.memRead_hold_iff (rd : Rd) (n : Nat) :
    rd.memRead n = .hold ↔ rd.avail.length < n ∧ rd.closed = false := by
  unfold Rd.memRead
  split
  · next h => simp [h]
  · split
    · next h => simp; omega
    · next h => split <;> simp_all

/-- A read with enough bytes available is done. -/
theorem Rd.memRead_of_le {rd : Rd} {n : Nat} (h : n ≤ rd.avail.length) : ∃ rd', rd.memRead n = .done (rd.avail.take n) rd' := by
  unfold Rd.memRead
  split
  · next h0 => exact ⟨rd, by simp [h0]⟩
  · exact ⟨_, rfl⟩

/-- Every cut has the bytes it cuts (20_memory R67). -/
@[simp] theorem concat_cut (sizes : List Nat) (b : List Byte) : concat (cut sizes b) = b := by
  unfold concat
  induction sizes generalizing b with
  | nil => cases b <;> simp [cut]
  | cons n ns ih => simp [cut, ih]

/-- Every way to cut a byte list is reached by some sizes: `SliceSplit` is left as open as 20_memory R67 leaves it. -/
theorem cut_sizes (blocks : List Slice) : cut (blocks.map List.length) (concat blocks) = blocks := by
  unfold concat
  induction blocks with
  | nil => rfl
  | cons c cs ih => simp [cut, ih]

/-- What a done read of one byte says (20_memory R65). -/
theorem Rd.rdU8_done {rd rd' : Rd} {v : Byte} (h : rd.rdU8 = .done v rd') :
    rd.memRead 1 = .done [v] rd' ∧ rd.avail = v :: rd'.avail := by
  unfold Rd.rdU8 at h
  cases hm : rd.memRead 1 with
  | short => simp [hm] at h
  | hold => simp [hm] at h
  | done b rd1 =>
    obtain ⟨hn, hb, ha, -⟩ := Rd.memRead_done hm
    cases hav : rd.avail with
    | nil => simp [hav] at hn
    | cons x xs => simp_all

/-- What a done read of a big-endian integer says (20_memory R66). -/
theorem Rd.rdU32BE_done {rd rd' : Rd} {v : Word} (h : rd.rdU32BE = .done v rd') :
    ∃ b0 b1 b2 b3, v = beWord b0 b1 b2 b3 ∧ rd.memRead 4 = .done [b0, b1, b2, b3] rd' ∧
      rd.avail = b0 :: b1 :: b2 :: b3 :: rd'.avail := by
  unfold Rd.rdU32BE at h
  cases hm : rd.memRead 4 with
  | short => simp [hm] at h
  | hold => simp [hm] at h
  | done b rd1 =>
    obtain ⟨hn, hb, ha, -⟩ := Rd.memRead_done hm
    match hav : rd.avail with
    | [] | [_] | [_, _] | [_, _, _] => simp [hav] at hn
    | b0 :: b1 :: b2 :: b3 :: xs =>
      refine ⟨b0, b1, b2, b3, ?_⟩
      simp_all

/-- What a done read of slices says (20_memory R67). -/
theorem Rd.rdSlices_done {rd rd' : Rd} {sizes : List Nat} {n : Nat} {s : List Slice}
    (h : rd.rdSlices sizes n = .done s rd') :
    rd.memRead n = .done (concat s) rd' ∧ concat s = rd.avail.take n ∧ size s = n := by
  unfold Rd.rdSlices at h
  cases hm : rd.memRead n with
  | short => simp [hm] at h
  | hold => simp [hm] at h
  | done b rd1 =>
    obtain ⟨hn, hb, -⟩ := Rd.memRead_done hm
    simp only [hm, ReadResult.done.injEq] at h
    obtain ⟨rfl, rfl⟩ := h
    by_cases h0 : n = 0
    · subst h0; simp_all [concat, size]
    · simp [h0, hb, size, hn]

/-- What a done skip says (20_memory R68). -/
theorem Rd.rdSkip_done {rd rd' : Rd} {n : Nat} (h : rd.rdSkip n = .done () rd') :
    ∃ b, rd.memRead n = .done b rd' := by
  unfold Rd.rdSkip at h
  cases hm : rd.memRead n <;> simp_all

/-! ### Writing (20_memory R69 to R74) -/

@[simp] theorem Wr.content_memWrite (wr : Wr) (v : List Byte) : (wr.memWrite v).content = wr.content ++ v := by
  cases v <;> simp [Wr.memWrite, Wr.content, Seg.content]

@[simp] theorem Wr.pos_memWrite (wr : Wr) (v : List Byte) : (wr.memWrite v).pos = wr.pos + v.length := by
  cases v <;> simp [Wr.memWrite]

@[simp] theorem Wr.content_putU8 (wr : Wr) (v : Byte) : (wr.putU8 v).content = wr.content ++ [v] := by simp [Wr.putU8]

@[simp] theorem Wr.content_putU32BE (wr : Wr) (v : Word) : (wr.putU32BE v).content = wr.content ++ beBytes v := by
  simp [Wr.putU32BE]

@[simp] theorem Wr.content_putZeros (wr : Wr) (n : Nat) :
    (wr.putZeros n).content = wr.content ++ List.replicate n 0#8 := by simp [Wr.putZeros]

@[simp] theorem Wr.content_putSlice (wr : Wr) (s : Slice) : (wr.putSlice s).content = wr.content ++ s := by
  simp [Wr.putSlice, Wr.content, Seg.content]

@[simp] theorem Wr.content_putSlices (wr : Wr) (blocks : List Slice) :
    (wr.putSlices blocks).content = wr.content ++ concat blocks := by
  unfold Wr.putSlices concat
  induction blocks generalizing wr with
  | nil => simp
  | cons s ss ih => simp [ih]

@[simp] theorem Wr.pos_putU8 (wr : Wr) (v : Byte) : (wr.putU8 v).pos = wr.pos + 1 := by simp [Wr.putU8]

@[simp] theorem Wr.pos_putU32BE (wr : Wr) (v : Word) : (wr.putU32BE v).pos = wr.pos + 4 := by simp [Wr.putU32BE, beBytes]

@[simp] theorem Wr.pos_putZeros (wr : Wr) (n : Nat) : (wr.putZeros n).pos = wr.pos + n := by simp [Wr.putZeros]

@[simp] theorem Wr.pos_putSlice (wr : Wr) (s : Slice) : (wr.putSlice s).pos = wr.pos + s.length := rfl

@[simp] theorem Wr.pos_putSlices (wr : Wr) (blocks : List Slice) : (wr.putSlices blocks).pos = wr.pos + size blocks := by
  unfold Wr.putSlices size concat
  induction blocks generalizing wr with
  | nil => simp
  | cons s ss ih => simp [ih, Nat.add_assoc]

theorem Wr.segs_putSlices (wr : Wr) (blocks : List Slice) :
    (wr.putSlices blocks).segs = wr.segs ++ blocks.map .ref := by
  unfold Wr.putSlices
  induction blocks generalizing wr with
  | nil => simp
  | cons s ss ih => simp [ih, Wr.putSlice]

/-! ### The memory operations keep the canonical form (log 18) -/

theorem Wr.memWrite_keeps_wf {wr : Wr} (v : List Byte) (h : wr.wf) : (wr.memWrite v).wf := by
  cases v with
  | nil => exact h
  | cons b bs =>
    intro g hg
    rcases List.mem_append.1 hg with hg | hg
    · exact h g hg
    · simp_all

theorem Wr.putSlices_keeps_wf {wr : Wr} (blocks : List Slice) (h : wr.wf) : (wr.putSlices blocks).wf := by
  intro g hg
  rw [Wr.segs_putSlices] at hg
  rcases List.mem_append.1 hg with hg | hg
  · exact h g hg
  · obtain ⟨s, -, rfl⟩ := List.mem_map.1 hg
    simp

theorem Rd.append_keeps_wf {rd : Rd} (c : List Byte) (h : rd.wf) : (rd.append c).wf := by
  cases c with
  | nil => exact h
  | cons b bs =>
    intro d hd
    rcases List.mem_append.1 hd with hd | hd
    · exact h d hd
    · simp_all

@[simp] theorem Rd.avail_append (rd : Rd) (c : List Byte) : (rd.append c).avail = rd.avail ++ c := by
  cases c <;> simp [Rd.append, Rd.avail]

/-- Drain removes exactly the first `k` bytes of the output, or all of it (20_memory R85, log 14). -/
theorem content_drainSegs (k : Nat) (segs : List Seg) :
    ((drainSegs k segs).map Seg.content).flatten = ((segs.map Seg.content).flatten).drop k := by
  induction segs generalizing k with
  | nil => simp [drainSegs]
  | cons g gs ih =>
    unfold drainSegs
    split
    · next h => simp [ih, List.drop_append, List.drop_eq_nil_of_le h]
    · next h =>
      have hk : k - g.content.length = 0 := Nat.sub_eq_zero_of_le (Nat.le_of_not_le h)
      cases g <;> simp_all [Seg.drop, Seg.content, List.drop_append]

theorem drainSegs_keeps_wf (k : Nat) (segs : List Seg) (h : ∀ g ∈ segs, g ≠ .bytes []) :
    ∀ g ∈ drainSegs k segs, g ≠ .bytes [] := by
  induction segs generalizing k with
  | nil => simp [drainSegs]
  | cons x xs ih =>
    unfold drainSegs
    split
    · exact ih _ fun g hg => h g (List.mem_cons_of_mem _ hg)
    · next hle =>
      intro g hg
      rcases List.mem_cons.1 hg with rfl | hg
      · cases x <;> simp_all [Seg.drop, Seg.content]
      · exact h g (List.mem_cons_of_mem _ hg)

/-! ### The environment and the port -/

/-- What a delivery can do. -/
theorem State.deliver_cases (s : State) (c : List Byte) :
    (s.rd.closed = true ∧ s.deliver c = .refused .appendAfterClose) ∨
      (s.rd.closed = false ∧ s.deliver c = .next { s with rd := s.rd.append c }) := by
  cases h : s.rd.closed <;> simp [State.deliver, h]

theorem State.close_cases (s : State) :
    (s.rd.closed = true ∧ s.close = .refused .closeAfterClose) ∨ (s.rd.closed = false ∧ s.close = .next s.endInput) := by
  cases h : s.rd.closed <;> simp [State.close, h]

/-- What going on after an environment's move can do. -/
theorem resume_cases (s : State) :
    (s.held = none ∧ resume s = .next s) ∨
      (∃ h, s.held = some h ∧ resume s = exec (.decode h.f h.l h.s) { s with held := none }) := by
  cases h : s.held <;> simp [resume, h]

theorem step_of_inputs {s : State} {x : Input} {rest : List Input} (h : s.inputs = x :: rest) :
    step s = accept x { s with inputs := rest } := by
  simp [step, advance, h]

theorem step_idle {s : State} (h : s.inputs = []) : step s = .next s := by
  simp [step, advance, h]

/-- A row of the table placed on the port is the very next arrival. -/
@[simp] theorem State.inputs_withFetchWord (s : State) (nbits w : Nat) :
    (s.withFetchWord nbits w).inputs = .raw (rawOfTableWord nbits w) :: s.inputs := rfl

end Sys2Proof.Machine
end

