-- ==== Sys2Proof/Laws/Frames.lean ====
section
/-! SUPPORT. What the parts of DECODE and ENCODE can do, said once: which bytes they take, which they append. -/
namespace Sys2Proof.Machine

/-! ### DECODE, part by part (40_decode R140) -/

theorem Parse.andThen_done {α β : Type} {p : Parse α} {k : α → Rd → Parse β} {b : β} {rd : Rd}
    (h : p.andThen k = .done b rd) : ∃ a rd1, p = .done a rd1 ∧ k a rd1 = .done b rd := by
  cases p with
  | done a rd1 => exact ⟨a, rd1, rfl, h⟩
  | fault c rd1 => cases h
  | hold => cases h

theorem Parse.andThen_fault {α β : Type} {p : Parse α} {k : α → Rd → Parse β} {c : Cause} {rd : Rd}
    (h : p.andThen k = .fault c rd) : p = .fault c rd ∨ ∃ a rd1, p = .done a rd1 ∧ k a rd1 = .fault c rd := by
  cases p with
  | done a rd1 => exact .inr ⟨a, rd1, rfl, h⟩
  | fault c' rd1 => exact .inl (by simpa [Parse.andThen] using h)
  | hold => cases h

theorem Parse.andThen_hold {α β : Type} {p : Parse α} {k : α → Rd → Parse β}
    (h : p.andThen k = .hold) : p = .hold ∨ ∃ a rd1, p = .done a rd1 ∧ k a rd1 = .hold := by
  cases p with
  | done a rd1 => exact .inr ⟨a, rd1, rfl, h⟩
  | fault c' rd1 => cases h
  | hold => exact .inl rfl

theorem Parse.ofRead_done {α : Type} {rd rd' : Rd} {sub : TruncatedSub} {r : ReadResult α} {a : α}
    (h : Parse.ofRead rd sub r = .done a rd') : r = .done a rd' := by
  cases r <;> simp_all [Parse.ofRead]

theorem Parse.ofRead_fault {α : Type} {rd rd' : Rd} {sub : TruncatedSub} {r : ReadResult α} {c : Cause}
    (h : Parse.ofRead rd sub r = .fault c rd') : r = .short ∧ c = .truncatedInput sub ∧ rd' = rd := by
  cases r <;> simp_all [Parse.ofRead]

theorem Parse.ofRead_hold {α : Type} {rd : Rd} {sub : TruncatedSub} {r : ReadResult α}
    (h : Parse.ofRead rd sub r = .hold) : r = .hold := by
  cases r <;> simp_all [Parse.ofRead]

/-- `rd'` is `rd` with its first `n` bytes consumed, and nothing else changed. -/
structure Rd.Consumed (rd rd' : Rd) (n : Nat) : Prop where
  enough : n ≤ rd.avail.length
  avail : rd'.avail = rd.avail.drop n
  pos : rd'.pos = rd.pos + n
  closed : rd'.closed = rd.closed
  poisoned : rd'.poisoned = rd.poisoned
  wf : rd.wf → rd'.wf

theorem Rd.Consumed.of_memRead {rd rd' : Rd} {n : Nat} {b : List Byte} (h : rd.memRead n = .done b rd') :
    rd.Consumed rd' n := by
  obtain ⟨h1, -, h3, h4, h5, h6⟩ := Rd.memRead_done h
  exact ⟨h1, h3, h4, h5, h6, Rd.memRead_keeps_wf h⟩

theorem Rd.Consumed.refl (rd : Rd) : rd.Consumed rd 0 := ⟨Nat.zero_le _, rfl, rfl, rfl, rfl, id⟩

theorem Rd.Consumed.trans {a b c : Rd} {m n : Nat} (h1 : a.Consumed b m) (h2 : b.Consumed c n) : a.Consumed c (m + n) where
  enough := by have := h1.enough; have := h2.enough; rw [h1.avail, List.length_drop] at this; omega
  avail := by rw [h2.avail, h1.avail, List.drop_drop]
  pos := by rw [h2.pos, h1.pos, Nat.add_assoc]
  closed := h2.closed.trans h1.closed
  poisoned := h2.poisoned.trans h1.poisoned
  wf h := h2.wf (h1.wf h)

/-- Line 5: when it is done it took one byte with PADDED set, none otherwise, and `rem` went down by as many. -/
theorem parsePadLength_done {padded : Bool} {rem : Nat} {rd rd' : Rd} {pr : Byte × Nat}
    (h : parsePadLength padded rem rd = .done pr rd') :
    rd.Consumed rd' (if padded then 1 else 0) ∧ rem = (if padded then 1 else 0) + pr.2 ∧
      (padded = false → pr.1 = 0#8) ∧ (padded = true → rd.avail = pr.1 :: rd'.avail) := by
  unfold parsePadLength at h
  cases padded with
  | false => simp at h; obtain ⟨rfl, rfl⟩ := h; simp [Rd.Consumed.refl]
  | true =>
    simp only [if_true] at h
    split at h
    · cases h
    · next hr =>
      obtain ⟨p, rd1, h1, h2⟩ := Parse.andThen_done h
      obtain ⟨h3, h4⟩ := Rd.rdU8_done (Parse.ofRead_done h1)
      cases h2
      refine ⟨by simpa using Rd.Consumed.of_memRead h3, by simp; omega, by simp, fun _ => h4⟩

/-- Line 6: when it is done it took five bytes with PRIORITY set, none otherwise, and `rem` went down by as many. -/
theorem parsePriority_done {priority : Bool} {rem : Nat} {rd rd' : Rd} {qr : Option Prio × Nat}
    (h : parsePriority priority rem rd = .done qr rd') :
    rd.Consumed rd' (if priority then 5 else 0) ∧ rem = (if priority then 5 else 0) + qr.2 ∧
      (priority = false → qr.1 = none) ∧
      (priority = true → ∃ b0 b1 b2 b3 g, rd.avail = b0 :: b1 :: b2 :: b3 :: g :: rd'.avail ∧
        qr.1 = some { excl := (unpack (beWord b0 b1 b2 b3)).1, sdep := (unpack (beWord b0 b1 b2 b3)).2, weight := g }) := by
  unfold parsePriority at h
  cases priority with
  | false => simp at h; obtain ⟨rfl, rfl⟩ := h; simp [Rd.Consumed.refl]
  | true =>
    simp only [if_true] at h
    split at h
    · cases h
    · next hr =>
      obtain ⟨w, rd1, h1, h2⟩ := Parse.andThen_done h
      obtain ⟨g, rd2, h3, h4⟩ := Parse.andThen_done h2
      obtain ⟨b0, b1, b2, b3, hw, h5, h6⟩ := Rd.rdU32BE_done (Parse.ofRead_done h1)
      obtain ⟨h7, h8⟩ := Rd.rdU8_done (Parse.ofRead_done h3)
      cases h4
      refine ⟨by simpa using (Rd.Consumed.of_memRead h5).trans (Rd.Consumed.of_memRead h7), by simp; omega, by simp, ?_⟩
      intro _
      exact ⟨b0, b1, b2, b3, g, by rw [h6, h8], by rw [hw]⟩

/-- Lines 7 to 10: when they are done they took the `rem` bytes left, the first `rem - p` of them as slices. -/
theorem parseBlocks_done {sizes : List Nat} {p : Byte} {rem : Nat} {rd rd' : Rd} {bh : List Slice × Nat}
    (h : parseBlocks sizes p rem rd = .done bh rd') :
    rd.Consumed rd' rem ∧ p.toNat + bh.2 = rem ∧ concat bh.1 = rd.avail.take bh.2 ∧ size bh.1 = bh.2 := by
  unfold parseBlocks at h
  split at h
  · cases h
  · next hr =>
    obtain ⟨b, rd1, h1, h2⟩ := Parse.andThen_done h
    obtain ⟨u, rd2, h3, h4⟩ := Parse.andThen_done h2
    obtain ⟨h5, h6, h7⟩ := Rd.rdSlices_done (Parse.ofRead_done h1)
    obtain ⟨x, h8⟩ := Rd.rdSkip_done (Parse.ofRead_done h3)
    cases h4
    refine ⟨?_, by simp; omega, h6, h7⟩
    have := (Rd.Consumed.of_memRead h5).trans (Rd.Consumed.of_memRead h8)
    rwa [Nat.sub_add_cancel (Nat.le_of_not_lt hr)] at this

/-! ### ENCODE (42_encode R160) -/

/-- The bytes lines 5 to 8 append, field by field. -/
theorem State.content_emitPayload (s : State) (wr : Wr) :
    (s.emitPayload wr).content =
      wr.content ++ ((if flagPadded s.flags then [s.pad] else []) ++
        ((if flagPriority s.flags then
            (match s.prio with
            | some p => beBytes (pack s.packMode p.excl p.sdep) ++ [p.weight]
            | none => [])
          else []) ++
        (concat (s.hblk.getD []) ++ (if flagPadded s.flags then List.replicate s.pad.toNat 0#8 else [])))) := by
  unfold State.emitPayload Wr.putPriority
  cases flagPadded s.flags <;> cases flagPriority s.flags <;> cases s.prio <;> simp

/-- ENCODE appends segments and rewrites none (20_memory R62). -/
theorem State.content_emitPayload_length (s : State) (wr : Wr) :
    (s.emitPayload wr).pos = wr.pos + ((s.emitPayload wr).content.length - wr.content.length) := by
  rw [State.content_emitPayload]
  unfold State.emitPayload Wr.putPriority
  cases flagPadded s.flags <;> cases flagPriority s.flags <;> cases s.prio <;> simp [size] <;> omega

theorem State.emitPayload_keeps_wf (s : State) {wr : Wr} (h : wr.wf) : (s.emitPayload wr).wf := by
  unfold State.emitPayload Wr.putPriority
  cases flagPadded s.flags <;> cases flagPriority s.flags <;> cases s.prio <;>
    simp only [Wr.putU8, Wr.putU32BE, Wr.putZeros, if_true, if_false, Bool.false_eq_true] <;>
    first
    | exact Wr.putSlices_keeps_wf _ h
    | exact Wr.putSlices_keeps_wf _ (Wr.memWrite_keeps_wf _ h)
    | exact Wr.putSlices_keeps_wf _ (Wr.memWrite_keeps_wf _ (Wr.memWrite_keeps_wf _ h))
    | exact Wr.memWrite_keeps_wf _ (Wr.putSlices_keeps_wf _ (Wr.memWrite_keeps_wf _ h))
    | exact Wr.memWrite_keeps_wf _ (Wr.putSlices_keeps_wf _
        (Wr.memWrite_keeps_wf _ (Wr.memWrite_keeps_wf _ (Wr.memWrite_keeps_wf _ h))))

end Sys2Proof.Machine
end

