-- ==== Sys2Proof/Laws/PerInstr.lean ====
section
/-! SUPPORT. Statements for all instructions, made per instruction. -/
namespace Sys2Proof.Laws

namespace OpcodeField

/-- A command's word carries its opcode of 30_encoding R121 in bits 103:96 (R120); a wire row is no command word and has no
opcode (45_absent_families R200). -/
def Statement (i : Instr) : Prop :=
  match encode i with
  | .command w _ => opcodeOf i = some (opField w)
  | .payload .. => opcodeOf i = none
  | .wireWord _ => opcodeOf i = none
  | .byte _ => opcodeOf i = none

theorem new : Statement .new := by simp [Statement, Sys2Proof.encode, opcodeOf]
theorem setflags (f : Word) : Statement (.setflags f) := by simp [Statement, Sys2Proof.encode, opcodeOf]
theorem setsid (s : Word) : Statement (.setsid s) := by simp [Statement, Sys2Proof.encode, opcodeOf]
theorem setpad (n : Word) : Statement (.setpad n) := by simp [Statement, Sys2Proof.encode, opcodeOf]
theorem setprio (d e g : Word) : Statement (.setprio d e g) := by simp [Statement, Sys2Proof.encode, opcodeOf]
theorem setblocks (b : List Slice) : Statement (.setblocks b) := by simp [Statement, Sys2Proof.encode, opcodeOf]
theorem gettype : Statement .gettype := by simp [Statement, Sys2Proof.encode, opcodeOf]
theorem getflags : Statement .getflags := by simp [Statement, Sys2Proof.encode, opcodeOf]
theorem getlen : Statement .getlen := by simp [Statement, Sys2Proof.encode, opcodeOf]
theorem getsid : Statement .getsid := by simp [Statement, Sys2Proof.encode, opcodeOf]
theorem getpad : Statement .getpad := by simp [Statement, Sys2Proof.encode, opcodeOf]
theorem getprio : Statement .getprio := by simp [Statement, Sys2Proof.encode, opcodeOf]
theorem gethlen : Statement .gethlen := by simp [Statement, Sys2Proof.encode, opcodeOf]
theorem getblocks : Statement .getblocks := by simp [Statement, Sys2Proof.encode, opcodeOf]
theorem ispadded : Statement .ispadded := by simp [Statement, Sys2Proof.encode, opcodeOf]
theorem hasprio : Statement .hasprio := by simp [Statement, Sys2Proof.encode, opcodeOf]
theorem endhdrs : Statement .endhdrs := by simp [Statement, Sys2Proof.encode, opcodeOf]
theorem flagname (b : Word) : Statement (.flagname b) := by simp [Statement, Sys2Proof.encode, opcodeOf]
theorem getstatus : Statement .getstatus := by simp [Statement, Sys2Proof.encode, opcodeOf]
theorem decode (f l s : Word) : Statement (.decode f l s) := by simp [Statement, Sys2Proof.encode, opcodeOf]
theorem complen : Statement .complen := by simp [Statement, Sys2Proof.encode, opcodeOf]
theorem encode : Statement .encode := by simp [Statement, Sys2Proof.encode, opcodeOf]
theorem headersN (flags : Byte) (fragment : List Byte) : Statement (.headersN flags fragment) := rfl
theorem headersP (flags pad : Byte) (fragment padding : List Byte) : Statement (.headersP flags pad fragment padding) := rfl
theorem headersQ (flags : Byte) (e : Bool) (d : Sdep) (g : Byte) (fragment : List Byte) : Statement (.headersQ flags e d g fragment) := rfl
theorem headersPQ (flags pad : Byte) (e : Bool) (d : Sdep) (g : Byte) (fragment padding : List Byte) : Statement (.headersPQ flags pad e d g fragment padding) := rfl
theorem priorityWord (e : Bool) (d : Sdep) : Statement (.priorityWord e d) := rfl
theorem flagsByte (f : Byte) : Statement (.flagsByte f) := rfl

end OpcodeField

end Sys2Proof.Laws
end

