-- ==== Sys2Proof/Laws/Pseudo.lean ====
section
/-! SUPPORT. What the pseudo-commands SETFLAG and CLRFLAG do, in every phase (30_encoding R124). -/
namespace Sys2Proof.Machine

/-- A second BAD_PHASE on a FAULTED frame changes nothing that the first did not. -/
theorem State.raise_raise (s : State) (c : Cause) : (s.raise c).raise c = s.raise c := by
  cases h : s.fcause <;> simp [State.raise, h, BitVec.or_assoc]

/-- A fault overwrites the response. -/
theorem State.raise_respond (s : State) (v : Value) (c : Cause) : (s.respond v).raise c = s.raise c := rfl

/-- Whatever the phase, GETFLAGS then SETFLAGS ends as SETFLAGS alone: GETFLAGS changes only the response, which SETFLAGS
overwrites, and on a FAULTED frame both raise the same BAD_PHASE. -/
theorem execAll_getflags_setflags (f : Word) (s : State) :
    execAll [.getflags, .setflags f] s = exec (.setflags f) s := by
  cases h : s.phase <;>
    simp [execAll, andThen, exec, execGetflags, execSetflags, State.ifReadable, State.ifFresh, h, State.raise_raise,
      State.raise_respond]
  split <;> rfl

/-- In every phase the command pair is the expansion of R124 with `v` what FLAGS holds, which is what GETFLAGS reads. -/
theorem rewriteFlags_eq (k : Word → Word) (s : State) :
    rewriteFlags k s = execAll [.getflags, .setflags (k (s.flags.setWidth 32))] s := by
  cases h : s.phase <;>
    simp [rewriteFlags, execAll, andThen, exec, execGetflags, execSetflags, State.ifReadable, State.ifFresh, h,
      State.flagsRead, State.respond, State.raise_raise]

theorem pseudoSetflag_eq (m : Word) (s : State) :
    pseudoSetflag m s = exec (.setflags (s.flags.setWidth 32 ||| m)) s :=
  (rewriteFlags_eq _ s).trans (execAll_getflags_setflags _ s)

theorem pseudoClrflag_eq (m : Word) (s : State) :
    pseudoClrflag m s = exec (.setflags (s.flags.setWidth 32 &&& ~~~m)) s :=
  (rewriteFlags_eq _ s).trans (execAll_getflags_setflags _ s)

end Sys2Proof.Machine
end

