-- ==== Sys2Proof/Tests/Slice0.lean ====
section
/-! SUPPORT. Small tests: ill-formed terms, words written out from the spec, one step on one state with the results of
95_test_vectors, and for every statement with hypotheses a state and operands that meet them, clause by clause. -/
namespace Sys2Proof.Tests
open Sys2Proof.Machine Sys2Proof.Claims

/-! ### States to test on -/

/-- A fresh frame; its stream identifier is 0. -/
def fresh : State := { State.reset with sid := 0#31 }

/-- The fresh frame of 95_test_vectors P1 after its step 7, with the pack mode given. -/
def built (mode : PackMode) : State :=
  { fresh with
    flags := 0x28#8, len := 19#24, sid := 1#31, pad := 3#8, prio := some ⟨true, 5#31, 200#8⟩
    hblk := some [[0x00, 0x01, 0x02, 0x03, 0x04], [0x05, 0x06, 0x07, 0x08, 0x09]], hlen := some 10
    lenstale := false, packMode := mode }

/-- A fresh frame with these chunks on `IN`, open or closed. -/
def onInput (chunks : List (List Byte)) (closed : Bool) : State := { fresh with rd := ⟨chunks, closed, false, 0⟩ }

/-- A decoded frame (95_test_vectors D2). -/
def decoded : State := { fresh with phase := .decoded, flags := 0x08#8, len := 1#24, hblk := some [], hlen := some 0, lenstale := false }

/-- A frame that faulted BAD_PHASE. -/
def broken : State :=
  { fresh with phase := .faulted, fsr := 0b010#3, fcause := some (.contractViolation .badPhase) }

/-- A fresh frame on a poisoned reader. -/
def poisoned : State := { fresh with fsr := 0b001#3, rd := ⟨[], true, true, 1⟩ }

/-- The frame of 95_test_vectors P5 after its step 3, with what arrives next. -/
def holding (inputs : List Input) : State :=
  { onInput [[0x01]] false with held := some ⟨0x08, 4, 1⟩, inputs := inputs }

/-- The fresh frame with what arrives next. -/
def receiving (inputs : List Input) : State := { fresh with inputs := inputs }

/-- Does the outcome have a next state, with this property? -/
def yields (o : Host.Outcome State Fault Refusal) (p : State → Bool) : Bool :=
  match o with
  | .next t => p t
  | .fault _ => false
  | .refused _ => false

/-- One chunk, or none for no bytes. -/
def chunksOf (bytes : List Byte) : List (List Byte) := if bytes.isEmpty then [] else [bytes]

/-- A DECODE on bytes, as one row of the tables of 95_test_vectors: its response, `FSR`, poison and the bytes consumed. -/
def faultsWith (f l : Word) (bytes : List Byte) (closed : Bool) (c : Cause) (consumed : Nat) : Bool :=
  yields (exec (.decode f l 1) (onInput (chunksOf bytes) closed)) fun t =>
    t.resp == some (.fault c) && t.phase == .faulted && t.rd.poisoned && t.rd.pos == consumed
      && t.rd.buf.flatten == bytes.drop consumed && t.fsr == c.fsrBit

/-- A DECODE on bytes, as one row of the table of successes: the registers and the bytes consumed. -/
def readsAs (f l : Word) (bytes : List Byte) (pad : Byte) (prio : Option Prio) (hlen : Nat) : Bool :=
  yields (exec (.decode f l 1) (onInput (chunksOf bytes) true)) fun t =>
    t.resp == some (.ok .empty) && t.phase == .decoded && t.flags == low8 f && t.len == low24 l && t.pad == pad
      && t.prio == prio && t.hlen == some hlen && t.rd.pos == l.toNat && t.rd.buf.isEmpty && !t.lenstale

/-! ### Well-formedness: one ill-formed term for each check -/

theorem test_wellformed_refuses_headersN_with_padded : ¬ WellFormed (.headersN 0x08 [0x41]) := by decide
theorem test_wellformed_refuses_headersP_without_padded : ¬ WellFormed (.headersP 0x28 0 [0x41] []) := by decide
theorem test_wellformed_refuses_headersQ_without_priority : ¬ WellFormed (.headersQ 0x00 true 5 200 []) := by decide
theorem test_wellformed_refuses_headersPQ_without_padded : ¬ WellFormed (.headersPQ 0x20 0 true 5 200 [] []) := by decide
theorem test_wellformed_refuses_headersP_padding_of_another_length :
    ¬ WellFormed (.headersP 0x08 2 [0x41] [0x00]) := by decide
theorem test_wellformed_refuses_headersPQ_padding_of_another_length :
    ¬ WellFormed (.headersPQ 0x28 0 true 5 200 [] [0x00]) := by decide
theorem test_wellformed_refuses_a_payload_longer_than_the_length_register (fragment : List Byte)
    (h : fragment.length = 16777216) : ¬ WellFormed (.headersN 0x00 fragment) := by
  simp [WellFormed, Instr.wellFormed, h, lenMax]
theorem test_wellformed_takes_the_spec_examples :
    WellFormed (.headersPQ 0x2D 1 true 3 0 [0x82, 0x86, 0x84] [0x7E]) ∧ WellFormed (.headersP 0x08 0 [] []) ∧
      WellFormed (.headersQ 0x24 true 0x7FFFFFFF 255 []) ∧ WellFormed (.headersN 0x00 []) := by decide

/-! ### Decoding: words written out from 30_encoding R120, R121 and the encodings of 95_test_vectors -/

theorem test_decode_construction_and_setters :
    decode (.command 0x00000000000000000000000000#104 []) = .ok .new ∧
    decode (.command 0x01000000280000000000000000#104 []) = .ok (.setflags 0x28) ∧
    decode (.command 0x02000000010000000000000000#104 []) = .ok (.setsid 1) ∧
    decode (.command 0x03000000030000000000000000#104 []) = .ok (.setpad 3) ∧
    decode (.command 0x040000000500000001000000C8#104 []) = .ok (.setprio 5 1 200) ∧
    decode (.command 0x05000000000000000000000000#104 [[0x41]]) = .ok (.setblocks [[0x41]]) := by
  refine ⟨?_, ?_, ?_, ?_, ?_, ?_⟩ <;> rfl

theorem test_decode_getters :
    decode (.command 0x10000000000000000000000000#104 []) = .ok .gettype ∧
    decode (.command 0x11000000000000000000000000#104 []) = .ok .getflags ∧
    decode (.command 0x12000000000000000000000000#104 []) = .ok .getlen ∧
    decode (.command 0x13000000000000000000000000#104 []) = .ok .getsid ∧
    decode (.command 0x14000000000000000000000000#104 []) = .ok .getpad ∧
    decode (.command 0x15000000000000000000000000#104 []) = .ok .getprio ∧
    decode (.command 0x16000000000000000000000000#104 []) = .ok .gethlen ∧
    decode (.command 0x17000000000000000000000000#104 []) = .ok .getblocks := by
  refine ⟨?_, ?_, ?_, ?_, ?_, ?_, ?_, ?_⟩ <;> rfl

theorem test_decode_queries_and_status :
    decode (.command 0x18000000000000000000000000#104 []) = .ok .ispadded ∧
    decode (.command 0x19000000000000000000000000#104 []) = .ok .hasprio ∧
    decode (.command 0x1A000000000000000000000000#104 []) = .ok .endhdrs ∧
    decode (.command 0x1B000000080000000000000000#104 []) = .ok (.flagname 8) ∧
    decode (.command 0x1C000000000000000000000000#104 []) = .ok .getstatus := by
  refine ⟨?_, ?_, ?_, ?_, ?_⟩ <;> rfl

theorem test_decode_codec :
    decode (.command 0x20000000280000001300000001#104 []) = .ok (.decode 0x28 19 1) ∧
    decode (.command 0x21000000000000000000000000#104 []) = .ok .complen ∧
    decode (.command 0x22000000000000000000000000#104 []) = .ok .encode := by
  refine ⟨?_, ?_, ?_⟩ <;> rfl

theorem test_decode_wire_rows :
    decode (.payload 0x05 [0x41]) = .ok (.headersN 0x05 [0x41]) ∧
    decode (.payload 0x08 [0x02, 0x11, 0x22, 0x33, 0x00, 0x00]) = .ok (.headersP 0x08 2 [0x11, 0x22, 0x33] [0x00, 0x00]) ∧
    decode (.payload 0x20 [0x01, 0x02, 0x03, 0x04, 0x10, 0xAA, 0xBB]) =
      .ok (.headersQ 0x20 false 0x01020304 16 [0xAA, 0xBB]) ∧
    decode (.payload 0x28 [0x00, 0x80, 0x00, 0x00, 0x00, 0x80]) = .ok (.headersPQ 0x28 0 true 0 128 [] []) ∧
    decode (.wireWord 0x92345678) = .ok (.priorityWord true 0x12345678) ∧
    decode (.byte 0xD7) = .ok (.flagsByte 0xD7) := by
  refine ⟨?_, ?_, ?_, ?_, ?_, ?_⟩ <;> rfl

theorem test_unused_operands_are_ignored :
    decode (.command 0x10FFFFFFFFFFFFFFFFFFFFFFFF#104 [[0x41]]) = .ok .gettype := by rfl

theorem test_illegal_opcodes_are_refused_by_name :
    decode (.command 0x06000000000000000000000000#104 []) = .error (.illegalCmd 0x06) ∧
    decode (.command 0x23000000000000000000000000#104 []) = .error (.illegalCmd 0x23) ∧
    decode (.command 0xFF000000000000000000000000#104 []) = .error (.illegalCmd 0xFF) := by
  refine ⟨?_, ?_, ?_⟩ <;> rfl

/-- The Pad Length is unsigned: 128 bytes of padding do not fit in two (95_test_vectors M5). -/
theorem test_payload_without_room_is_no_layout :
    decode (.payload 0x08 [0x80, 0x01, 0x02]) = .error (.noLayout 0x08) ∧
    decode (.payload 0x20 [0x00, 0x00, 0x00, 0x01]) = .error (.noLayout 0x20) ∧
    decode (.payload 0x28 [0x01, 0x80, 0x00, 0x00, 0x00, 0x80]) = .error (.noLayout 0x28) := by
  refine ⟨?_, ?_, ?_⟩ <;> rfl

theorem test_opcode_map_has_no_overlap : opcodeMap.Pairwise (fun a b => a.op ≠ b.op) := by
  unfold opcodeMap; decide

/-! ### The table's words, run as the first thing after reset -/

theorem test_table_words_decode :
    decodeTableWord 104 0x01000000280000000000000000 = some (.setflags 0x28) ∧
    decodeTableWord 104 0x06000000000000000000000000 = none ∧
    decodeTableWord 32 0x80000005 = some (.priorityWord true 5) ∧
    decodeTableWord 8 0x28 = some (.headersPQ 0x28 0 false 0 0 [] []) := by
  refine ⟨?_, ?_, ?_, ?_⟩ <;> rfl

theorem test_first_step_after_reset_runs_the_placed_word :
    yields (step (State.reset.withFetchWord 104 0x03000000FF0000000000000000)) (fun t => t.pad == 255#8) = true ∧
    yields (step (State.reset.withFetchWord 32 0x80000005)) (fun t => t.rd.buf == [[0x80, 0x00, 0x00, 0x05]]) = true := by
  decide

/-! ### One step, with the results of 95_test_vectors -/

theorem test_setpad_takes_255 : yields (exec (.setpad 255) fresh) (fun t => t.pad == 255#8 && t.lenstale) = true := by decide
theorem test_setpad_256_and_minus_one_are_out_of_range :
    exec (.setpad 256) fresh = .next (violation fresh .range) ∧ exec (.setpad (-1)) fresh = .next (violation fresh .range) := by
  and_intros <;> rfl
theorem test_setprio_takes_the_maxima :
    yields (exec (.setprio 2147483647 1 255) fresh) (fun t => t.prio == some ⟨true, 2147483647#31, 255#8⟩) = true := by decide
theorem test_setprio_out_of_range :
    exec (.setprio (-1) 0 0) fresh = .next (violation fresh .range) ∧
    exec (.setprio 0 2 0) fresh = .next (violation fresh .range) ∧
    exec (.setprio 0 0 256) fresh = .next (violation fresh .range) := by and_intros <;> rfl
theorem test_setflags_256_is_out_of_range : exec (.setflags 256) fresh = .next (violation fresh .range) := by rfl
theorem test_setflags_keeps_reserved_bits : yields (exec (.setflags 0xFF) fresh) (fun t => t.flags == 0xFF#8) = true := by decide
theorem test_setsid_does_not_stale :
    yields (exec (.setsid 7) (built .or)) (fun t => t.sid == 7#31 && !t.lenstale) = true := by decide
theorem test_setsid_negative_is_out_of_range : exec (.setsid 0x80000000) fresh = .next (violation fresh .range) := by rfl
theorem test_setblocks_sums_the_sizes :
    yields (exec (.setblocks [[0xDE, 0xAD], [0xBE, 0xEF]]) fresh) (fun t => t.hlen == some 4) = true := by decide
theorem test_new_clears_the_cause_and_keeps_fsr :
    yields (exec .new broken) (fun t => t.phase == .fresh && t.fcause == none && t.fsr == 0b010#3 && t.lenstale) = true := by
  decide

theorem test_getpad_is_gated :
    exec .getpad { fresh with pad := 9 } = .next (answered { fresh with pad := 9 } (.pad 0)) ∧
    exec .getpad { fresh with pad := 9, flags := 0x08 } = .next (answered { fresh with pad := 9, flags := 0x08 } (.pad 9)) := by
  and_intros <;> rfl
theorem test_getprio_is_gated :
    exec .getprio { fresh with prio := some ⟨true, 5, 200⟩ } =
      .next (answered { fresh with prio := some ⟨true, 5, 200⟩ } (.prio none)) ∧
    exec .getprio { fresh with flags := 0x20 } = .next (violation { fresh with flags := 0x20 } .unsetField) := by and_intros <;> rfl
theorem test_getlen_carries_the_stale_bit :
    exec .getlen fresh = .next (answered fresh (.lenAndStale 0 true)) ∧
    exec .getlen (built .or) = .next (answered (built .or) (.lenAndStale 19 false)) := by and_intros <;> rfl
theorem test_gettype_is_one : exec .gettype fresh = .next (answered fresh (.typeTag 1)) := by rfl
theorem test_gethlen_unset : exec .gethlen fresh = .next (violation fresh .unsetField) := by rfl
theorem test_flag_queries_on_d3 :
    exec .ispadded { fresh with flags := 0xD3 } = .next (answered { fresh with flags := 0xD3 } (.boolean false)) ∧
    exec .hasprio { fresh with flags := 0xD3 } = .next (answered { fresh with flags := 0xD3 } (.boolean false)) ∧
    exec .endhdrs { fresh with flags := 0xD3 } = .next (answered { fresh with flags := 0xD3 } (.boolean false)) := by and_intros <;> rfl
/-- 0x09 is not PADDED with END_STREAM: the whole operand is matched (95_test_vectors F5). -/
theorem test_flagname_matches_the_whole_operand :
    exec (.flagname 0x09) fresh = .next (answered fresh (.name (.base (baseFlagName 0x09)))) ∧
    exec (.flagname 0x04) broken = .next (answered broken (.name (.base .endHeaders))) := by
  and_intros <;> rfl
/-- The spelling of 95_test_vectors F1 to F4, and ASCII (R170). -/
theorem test_flagname_text :
    [0x01, 0x08, 0x20, 0x04].map (fun b : Word => (flagName b).text) = ["END_STREAM", "PADDED", "PRIORITY", "END_HEADERS"] ∧
    ([FlagName.endStream, .padded, .priority, .base .endHeaders].all fun n => n.text.toList.all fun c => c.toNat < 128) = true := by
  decide
theorem test_reads_fault_on_a_faulted_frame :
    exec .getflags broken = .next (violation broken .badPhase) ∧
    exec .getstatus broken =
      .next (answered broken (.status .faulted true 0b010 (some (.contractViolation .badPhase)))) := by and_intros <;> rfl
/-- A second fault of another kind: both bits of FSR, the first cause (95_test_vectors P4, P3). -/
theorem test_second_fault_keeps_the_first_cause :
    yields (step { broken with inputs := [.raw (.command 0xFF000000000000000000000000#104 [])], fsr := 0b001#3 })
      (fun t => t.fsr == 0b011#3 && t.fcause == some (.contractViolation .badPhase)
        && t.resp == some (.fault (.contractViolation .illegalCmd))) = true := by decide

theorem test_complen_counts_the_padding :
    yields (exec .complen { built .or with lenstale := true, len := 0 })
      (fun t => t.len == 19#24 && !t.lenstale && t.resp == some (.ok (.length 19))) = true := by decide
/-- The corner pair L11, L12 of 95_test_vectors; `HLEN` alone is set, so the block is a stand-in. -/
theorem test_complen_overflows_past_the_length_register :
    yields (exec .complen { fresh with flags := 0x28, pad := 255, hblk := some [], hlen := some 16776954 })
      (fun t => t.resp == some (.ok (.length 16777215))) = true ∧
    yields (exec .complen { fresh with flags := 0x28, pad := 255, hblk := some [], hlen := some 16776955 })
      (fun t => t.resp == some (.fault (.contractViolation .lenOverflow)) && t.len == 0#24) = true := by decide

/-- 95_test_vectors E9 with the segments of P1, and E10. -/
theorem test_encode_payload :
    (built .or).emitPayload ⟨[], 0⟩ =
      ⟨[.bytes [0x03], .bytes [0x80, 0x00, 0x00, 0x05], .bytes [0xC8], .ref [0x00, 0x01, 0x02, 0x03, 0x04],
        .ref [0x05, 0x06, 0x07, 0x08, 0x09], .bytes [0x00, 0x00, 0x00]], 19⟩ ∧
    ((built .shiftCompat).emitPayload ⟨[], 0⟩).content =
      [0x03, 0x00, 0x00, 0x00, 0x10, 0xC8, 0x00, 0x01, 0x02, 0x03, 0x04, 0x05, 0x06, 0x07, 0x08, 0x09, 0x00, 0x00, 0x00] := by
  decide
theorem test_encode_checks_first :
    exec .encode { built .or with lenstale := true } = .next (violation { built .or with lenstale := true } .lenStale) ∧
    exec .encode { built .or with prio := none } = .next (violation { built .or with prio := none } .unsetField) ∧
    exec .encode decoded = .next (violation decoded .badPhase) := by and_intros <;> rfl
theorem test_encode_serializes :
    ∃ t, exec .encode (built .or) = .next t ∧ t.phase = .serialized ∧ t.resp = some (.ok .empty) := ⟨_, rfl, rfl, rfl⟩

theorem test_decode_successes :
    readsAs 0x00 0 [] 0 none 0 = true ∧ readsAs 0x08 1 [0x00] 0 none 0 = true ∧
    readsAs 0x08 4 [0x03, 0xFF, 0xFE, 0xFD] 3 none 0 = true ∧
    readsAs 0x20 5 [0xFF, 0xFF, 0xFF, 0xFF, 0xFF] 0 (some ⟨true, 2147483647, 255⟩) 0 = true ∧
    readsAs 0x2D 10 [0x01, 0x80, 0x00, 0x00, 0x03, 0x00, 0x82, 0x86, 0x84, 0x7E] 1 (some ⟨true, 3, 0⟩) 3 = true ∧
    readsAs 0xD7 2 [0x68, 0x69] 0 none 2 = true := by decide
theorem test_decode_malformed :
    faultsWith 0x08 0 [0x55] true (.malformedFrame .padLength) 0 = true ∧
    faultsWith 0x20 4 [0x00, 0x00, 0x00, 0x01] true (.malformedFrame .priority) 0 = true ∧
    faultsWith 0x28 5 [0x00, 0x80, 0x00, 0x00, 0x00, 0x80] true (.malformedFrame .priority) 1 = true ∧
    faultsWith 0x08 4 [0x04, 0xFF, 0xFE, 0xFD] true (.malformedFrame .padding) 1 = true ∧
    faultsWith 0x08 2 [0x05] false (.malformedFrame .padding) 1 = true := by decide
theorem test_decode_truncated :
    faultsWith 0x00 4 [0xDE, 0xAD] true (.truncatedInput .headerBlock) 0 = true ∧
    faultsWith 0x08 3 [] true (.truncatedInput .padLength) 0 = true ∧
    faultsWith 0x20 7 [0x80, 0x00, 0x00] true (.truncatedInput .priorityWord) 0 = true ∧
    faultsWith 0x20 7 [0x80, 0x00, 0x00, 0x05] true (.truncatedInput .weight) 4 = true ∧
    faultsWith 0x28 12 [0x03, 0x80, 0x00, 0x00, 0x05, 0xC8, 0x00, 0x01, 0x02, 0xAA, 0xBB] true
      (.truncatedInput .padding) 9 = true := by decide
theorem test_decode_holds_and_consumes_nothing :
    exec (.decode 0x08 10 1) (onInput [[0x05]] false) =
      .next { onInput [[0x05]] false with held := some ⟨0x08, 10, 1⟩, resp := none } := by rfl
/-- 95_test_vectors P2 step 2: the priority word straddles chunks; the padding is consumed. -/
theorem test_decode_over_chunks :
    yields (exec (.decode 0x28 19 1) (onInput [[0x03, 0x80, 0x00], [0x00, 0x05, 0xC8, 0x00, 0x01, 0x02, 0x03, 0x04],
        [0x05, 0x06, 0x07, 0x08, 0x09, 0xAA, 0xBB, 0xCC, 0xDE, 0xAD], [0xBE, 0xEF]] true))
      (fun t => t.rd.pos == 19 && t.rd.buf == [[0xDE, 0xAD], [0xBE, 0xEF]] && t.prio == some ⟨true, 5, 200⟩) = true := by
  decide
/-- 95_test_vectors P5 step 5, and what `.close` in its place gives. -/
theorem test_hold_ends :
    yields (step { holding [.appendChunk [0x69, 0x7F]] with rd := ⟨[[0x01], [0x68]], false, false, 0⟩ })
      (fun t => t.held == none && t.phase == .decoded && t.pad == 1#8 && t.hlen == some 2 && t.rd.pos == 4) = true ∧
    yields (step { holding [.close] with rd := ⟨[[0x01], [0x68]], false, false, 0⟩ })
      (fun t => t.held == none && t.resp == some (.fault (.truncatedInput .headerBlock))) = true := by decide
theorem test_decode_on_a_poisoned_reader : exec (.decode 0 0 9) poisoned = .next (violation poisoned .rdPoisoned) := by rfl
theorem test_drain_cuts_a_segment :
    step { fresh with wr := ⟨[.bytes [0x01], .ref [0xAA, 0xBB]], 3⟩, inputs := [.drain 2] } =
      .next { fresh with wr := ⟨[.ref [0xBB]], 3⟩ } := by rfl
theorem test_pack_columns :
    pack .or true 0x12345678 = 0x92345678 ∧ pack .or true 2147483647 = 0xFFFFFFFF ∧ pack .shiftCompat true 5 = 0x00000010 ∧
    pack .shiftCompat true 32 = 0x80000000 ∧ pack .shiftCompat true 31 = 0x40000000 ∧
    unpack 0xDEADBEEF = (true, 0x5EADBEEF) := by decide
theorem test_integer_codec :
    beBytes 0x12345678 = [0x12, 0x34, 0x56, 0x78] ∧ beWord 0xDE 0xAD 0xBE 0xEF = 0xDEADBEEF := by decide
theorem test_flags_byte_writes_flags : yields (exec (.flagsByte 0x2D) fresh) (fun t => t.flags == 0x2D#8) = true := by decide
theorem test_wire_row_after_close : exec (.headersN 0 [0x41]) (onInput [] true) = .refused .appendAfterClose := by rfl
/-- 70_reset_and_hazards R272: the environment may `Close` once; RESET opens the stream again. -/
theorem test_second_close :
    step { onInput [] true with inputs := [.close] } = .refused .closeAfterClose ∧
    yields (step { onInput [] true with inputs := [.reset, .close] }) (fun t => yields (step t) fun u => u.rd.closed) = true :=
  ⟨rfl, by decide⟩
/-- 30_encoding R124 on FLAGS = 0x2D: the bits of the mask are set or cleared, the others stay. -/
theorem test_setflag_and_clrflag :
    yields (pseudoSetflag 0x12 { fresh with flags := 0x2D }) (fun t => t.flags == 0x3F#8 && t.lenstale) = true ∧
    yields (pseudoClrflag 0x0C { fresh with flags := 0x2D }) (fun t => t.flags == 0x21#8 && t.lenstale) = true ∧
    yields (pseudoSetflag 0x08 broken) (fun t => t == violation broken .badPhase) = true := by decide
/-- R124 with R127: `0x100 | v` is out of the range of FLAGS. -/
theorem test_setflag_of_a_mask_out_of_range :
    yields (pseudoSetflag 0x100 fresh) (fun t => t.resp == some (.fault (.contractViolation .range)) && t.flags == 0x00#8) = true := by
  decide

/-! ### The hypotheses of the statements are met: one theorem per statement, named after it -/

/-- A wire row of 95_test_vectors D7, and the DECODE that reads it. -/
def deliverThenDecode : State :=
  receiving
    [.raw (encode (.headersPQ 0x2D 1 true 3 0 [0x82, 0x86, 0x84] [0x7E])),
      .raw (.command (word 0x20 (BitVec.ofNat 32 (0x2D#8).toNat)
        (BitVec.ofNat 32 (wireImage (.headersPQ 0x2D 1 true 3 0 [0x82, 0x86, 0x84] [0x7E])).length) 1) [])]

theorem witness_DecodingAnEncodedInstructionGivesItBack :
    WellFormed .new ∧ WellFormed (.headersPQ 0x28 1 true 0x7FFFFFFF 255 [0x41] [0x00]) := by decide
theorem witness_EveryCommandWordReadsAsTheOpcodeMapSays : (0x00 : Nat) < 256 ∧ (0x22 : Nat) < 256 ∧ (0xFF : Nat) < 256 := by
  decide
theorem witness_StepRunsTheDecodedInstruction :
    (∃ r, (receiving [.raw r]).inputs = .raw r :: [] ∧ decode r = .ok .new ∧ Instr.isWire .new = false ∧
      (receiving [.raw r]).held = none) ∧
    (∃ r, ({ onInput [] true with inputs := [.raw r] } : State).inputs = .raw r :: [] ∧
      decode r = .ok (.priorityWord true 5) ∧ Instr.isWire (.priorityWord true 5) = true ∧
      ({ onInput [] true with inputs := [.raw r] } : State).rd.closed = true) ∧
    (∃ r, (holding [.raw r]).inputs = .raw r :: [] ∧ decode r = .ok (.priorityWord true 5) ∧
      (holding [.raw r]).rd.closed = false) := by
  refine ⟨⟨.command 0 [], rfl, rfl, rfl, rfl⟩, ⟨.wireWord 0x80000005, rfl, rfl, rfl, rfl⟩, ⟨.wireWord 0x80000005, rfl, rfl, rfl⟩⟩
theorem witness_IllegalOpcodeRaisesIllegalCmdInEveryPhase :
    (∀ op ∈ [0x06, 0x0F, 0x1D, 0x1F, 0x23, 0xFF], 0x06 ≤ op ∧ op ≤ 0x0F ∨ 0x1D ≤ op ∧ op ≤ 0x1F ∨ 0x23 ≤ op ∧ op ≤ 0xFF) ∧
    ({ broken with inputs := [.raw (.command (word 0xFF 0 0 0) [])] } : State).held = none := by decide
theorem witness_EnvironmentMovesChangeOnlyTheStreams :
    fresh.inputs = [] ∧
    ((receiving [.appendChunk [0x41]]).inputs = .appendChunk [0x41] :: [] ∧ ([0x41] : List Byte) ≠ [] ∧
      (receiving [.appendChunk [0x41]]).held = none ∧ (receiving [.appendChunk [0x41]]).rd.closed = false) ∧
    ((receiving [.close]).inputs = .close :: [] ∧ (receiving [.close]).held = none ∧
      (receiving [.close]).rd.closed = false) ∧
    (receiving [.drain 0]).inputs = .drain 0 :: [] := by decide
theorem witness_PendingDecodeIsEvaluatedAgainAfterTheStreamMoves :
    ((holding [.appendChunk [0x68]]).held = some ⟨0x08, 4, 1⟩ ∧
      (holding [.appendChunk [0x68]]).inputs = .appendChunk [0x68] :: [] ∧ ([0x68] : List Byte) ≠ [] ∧
      (holding [.appendChunk [0x68]]).rd.closed = false) ∧
    ((holding [.close]).held = some ⟨0x08, 4, 1⟩ ∧ (holding [.close]).inputs = .close :: [] ∧
      (holding [.close]).rd.closed = false) := by decide
/-- At the boundary: the chunk brings exactly the four declared bytes. -/
theorem witness_CloseOrEnoughBytesEndTheHold :
    DecodeStarts (holding [.close]) 0x08 4 1 ∧ (holding [.close]).rd.closed = false ∧
    DecodeStarts (holding [.appendChunk [0x68, 0x69, 0x7F]]) 0x08 4 1 ∧
    (holding [.appendChunk [0x68, 0x69, 0x7F]]).rd.closed = false ∧
    (4 : Word).toNat ≤ ((holding []).rd.buf.flatten ++ ([0x68, 0x69, 0x7F] : List Byte)).length := by decide
theorem witness_CommandWhileOneIsPendingHasNoStep :
    (0xFF : Nat) < 256 ∧ (holding [.raw (.command (word 0xFF 0 0 0) [])]).held ≠ none ∧
    (holding [.raw (.command (word 0xFF 0 0 0) [])]).inputs = .raw (.command (word 0xFF 0 0 0) []) :: [] := by decide
theorem witness_ResetInputSetsEveryPieceOfState :
    (holding [.reset]).inputs = .reset :: [] ∧ (holding [.reset]).held ≠ none ∧ (holding [.reset]).resp = none := by decide
/-- Each stop is reached, and a step that stops nowhere is too. -/
theorem witness_OnlyForbiddenMovesStopTheStep :
    Command .encode ∧ (∃ t, step (holding [.drain 0]) = .next t) ∧
    step (holding [.raw (.command 0 [])]) = .refused .commandWhilePending ∧
    step { onInput [] true with inputs := [.appendChunk [0x41]] } = .refused .appendAfterClose ∧
    step { onInput [] true with inputs := [.raw (.payload 0x00 [0x41])] } = .refused .appendAfterClose ∧
    step { onInput [] true with inputs := [.close] } = .refused .closeAfterClose ∧
    step (receiving [.appendChunk []]) = .refused .emptyChunk ∧
    step (receiving [.raw (.payload 0x08 [])]) = .refused .notALayout :=
  ⟨by decide, ⟨_, rfl⟩, rfl, rfl, rfl, rfl, rfl, rfl⟩
theorem witness_CommandsArePermittedByPhaseAsTheTableSays :
    (Command .encode ∧ permitted .encode decoded.phase = false) ∧
    (Command .getflags ∧ permitted .getflags decoded.phase = true ∧ ∃ t, exec .getflags decoded = .next t) ∧
    (Command .getstatus ∧ permitted .getstatus broken.phase = true ∧ ∃ t, exec .getstatus broken = .next t) := by
  refine ⟨by decide, ⟨by decide, by decide, _, rfl⟩, ⟨by decide, by decide, _, rfl⟩⟩
theorem witness_CommandsRaiseOnlyTheFaultsOfTheMatrix :
    ∃ t, Command .gethlen ∧ exec .gethlen fresh = .next t ∧ t.resp = some (.fault (.contractViolation .unsetField)) :=
  ⟨_, by decide, rfl, rfl⟩
theorem witness_ContractViolationChangesOnlyWhatTheEntryLists :
    ∃ t, Command (.setpad 256) ∧ exec (.setpad 256) fresh = .next t ∧ t.resp = some (.fault (.contractViolation .range)) :=
  ⟨_, by decide, rfl, rfl⟩
theorem witness_FaultBitsStayUntilResetAndTheCauseUntilNew :
    (∃ t, step { broken with inputs := [.raw (.command 0 [])] } = .next t ∧
      ∀ rest, ({ broken with inputs := [.raw (.command 0 [])] } : State).inputs ≠ .reset :: rest) ∧
    (∃ t, Instr.getflags ≠ .new ∧ exec .getflags broken = .next t ∧
      broken.fcause = some (.contractViolation .badPhase)) :=
  ⟨⟨_, rfl, by simp⟩, ⟨_, by decide, rfl, rfl⟩⟩
theorem witness_PoisonedReaderStaysPoisonedUntilReset :
    (∃ t, step { poisoned with inputs := [.drain 0] } = .next t ∧
      (∀ rest, ({ poisoned with inputs := [.drain 0] } : State).inputs ≠ .reset :: rest) ∧ poisoned.rd.poisoned = true) ∧
    poisoned.phase = .fresh :=
  ⟨⟨_, rfl, by simp, rfl⟩, rfl⟩
/-- Each register is written by some command. -/
theorem witness_CommandsWriteOnlyTheRegistersOfTheAccessTable :
    yields (exec (.setflags 1) fresh) (fun t => t.flags != fresh.flags) = true ∧
    yields (exec .complen { fresh with hblk := some [[0x41]], hlen := some 1 }) (fun t => t.len != fresh.len) = true ∧
    yields (exec (.setsid 1) fresh) (fun t => t.sid != fresh.sid) = true ∧
    yields (exec (.setpad 1) fresh) (fun t => t.pad != fresh.pad) = true ∧
    yields (exec (.setprio 1 0 0) fresh) (fun t => t.prio != fresh.prio) = true ∧
    yields (exec (.setblocks []) fresh) (fun t => t.hblk != fresh.hblk && t.hlen != fresh.hlen) = true ∧
    yields (exec .getpad broken) (fun t => t.resp == some (.fault (.contractViolation .badPhase))) = true ∧
    yields (exec .new broken) (fun t => t.phase != broken.phase && t.fcause != broken.fcause) = true ∧
    yields (exec (.setpad 256) fresh) (fun t => t.fsr != fresh.fsr && t.fcause != fresh.fcause) = true ∧
    yields (exec (.decode 0 1 1) (onInput [[0x41]] true)) (fun t => t.rd != (onInput [[0x41]] true).rd) = true ∧
    yields (exec (.decode 0 1 1) (onInput [] false)) (fun t => t.held != fresh.held) = true := by decide
theorem witness_PhaseMovesOnlyAlongTheLifecycle :
    (receiving [.reset]).inputs = .reset :: [] ∧
    Command .encode ∧ ∃ t, exec .encode (built .or) = .next t ∧ t.resp = some (.ok .empty) := ⟨rfl, by decide, _, rfl, rfl⟩
theorem witness_LengthGoesStaleOnMutationAndFreshOnCompute :
    (receiving [.reset]).inputs = .reset :: [] ∧
    (∃ t, exec .encode (built .or) = .next t ∧ t.resp = some (.ok .empty)) ∧
    Command (.setpad 0) ∧ ∃ t, exec (.setpad 0) (built .or) = .next t ∧ t.resp = some (.ok .empty) :=
  ⟨rfl, ⟨_, rfl, rfl⟩, by decide, _, rfl, rfl⟩
theorem witness_SetflagsWritesTheWholeFlagsByte :
    decoded.phase ≠ .fresh ∧ fresh.phase = .fresh ∧ ((-1 : Word).toInt < 0 ∨ 255 < (-1 : Word).toInt) ∧
    ((256 : Word).toInt < 0 ∨ 255 < (256 : Word).toInt) ∧ (0 ≤ (0 : Word).toInt ∧ (0 : Word).toInt ≤ 255) ∧
    (0 ≤ (255 : Word).toInt ∧ (255 : Word).toInt ≤ 255) := by decide
theorem witness_SetsidWritesTheStreamIdentifier :
    broken.phase ≠ .fresh ∧ fresh.phase = .fresh ∧ (0x80000000 : Word).toInt < 0 ∧ 0 ≤ (0x7FFFFFFF : Word).toInt := by decide
theorem witness_SetpadWritesThePadLength :
    broken.phase ≠ .fresh ∧ fresh.phase = .fresh ∧ ((256 : Word).toInt < 0 ∨ 255 < (256 : Word).toInt) ∧
    (0 ≤ (255 : Word).toInt ∧ (255 : Word).toInt ≤ 255) := by decide
theorem witness_SetprioWritesThePriorityGroup :
    broken.phase ≠ .fresh ∧ fresh.phase = .fresh ∧ (0x80000000 : Word).toInt < 0 ∧ 1 < (2 : Word).toInt ∧
    255 < (256 : Word).toInt ∧
    (0 ≤ (0x7FFFFFFF : Word).toInt ∧ 0 ≤ (1 : Word).toInt ∧ (1 : Word).toInt ≤ 1 ∧ 0 ≤ (255 : Word).toInt ∧
      (255 : Word).toInt ≤ 255) := by decide
theorem witness_SetblocksWritesBlocksAndTheirSize : decoded.phase ≠ .fresh ∧ fresh.phase = .fresh := by decide
theorem witness_PlainGettersReturnTheirRegister : broken.phase = .faulted ∧ decoded.phase ≠ .faulted := by decide
theorem witness_GetpadReturnsTheEffectivePadLength :
    broken.phase = .faulted ∧ (decoded.phase ≠ .faulted ∧ Padded decoded.flags) ∧
    (fresh.phase ≠ .faulted ∧ ¬ Padded fresh.flags) := by decide
theorem witness_GetprioReturnsTheEffectivePriority :
    broken.phase = .faulted ∧ (fresh.phase ≠ .faulted ∧ ¬ Priority fresh.flags) ∧
    (fresh.phase ≠ .faulted ∧ Priority ({ fresh with flags := 0x20 } : State).flags ∧ fresh.prio = none) ∧
    ((built .or).phase ≠ .faulted ∧ Priority (built .or).flags ∧ (built .or).prio = some ⟨true, 5, 200⟩) := by decide
theorem witness_GethlenAndGetblocksReturnTheHeaderBlock :
    broken.phase = .faulted ∧ (fresh.phase ≠ .faulted ∧ fresh.hlen = none ∧ fresh.hblk = none) ∧
    (decoded.phase ≠ .faulted ∧ decoded.hlen = some 0 ∧ decoded.hblk = some []) := by decide
theorem witness_FlagPredicatesTestTheirBit : broken.phase = .faulted ∧ decoded.phase ≠ .faulted := by decide
theorem witness_FlagnameNamesTheFourFlags :
    (0x09 : Word) ≠ 0x01#32 ∧ (0x09 : Word) ≠ 0x08#32 ∧ (0x09 : Word) ≠ 0x20#32 := by decide
/-- The boundary pair L11, L12 of 95_test_vectors. -/
theorem witness_ComplenStoresTheExpectedLength :
    decoded.phase ≠ .fresh ∧ (fresh.phase = .fresh ∧ fresh.hblk = none) ∧
    (({ fresh with hblk := some [] } : State).hblk ≠ none ∧ ({ fresh with hlen := some 16776955 } : State).hlen = some 16776955 ∧
      16777215 < expectedLength 0x28 255 16776955) ∧
    expectedLength 0x28 255 16776954 ≤ 16777215 := by decide
theorem witness_EncodeAppendsTheFrameInWireOrder :
    decoded.phase ≠ .fresh ∧ (fresh.phase = .fresh ∧ fresh.lenstale = true) ∧
    ((built .or).lenstale = false ∧ Priority (built .or).flags ∧ ({ built .or with prio := none } : State).prio = none) ∧
    (built .or).phase = .fresh ∧ (built .or).lenstale = false ∧
    (built .or).hblk = some [[0x00, 0x01, 0x02, 0x03, 0x04], [0x05, 0x06, 0x07, 0x08, 0x09]] ∧
    (Priority (built .or).flags → (built .or).prio ≠ none) := by decide
theorem witness_built_Inv : (built .or).Inv := by
  constructor <;> decide
theorem witness_EncodeIsAllOrNothing : (built .or).Inv := witness_built_Inv
theorem witness_EncodeEmitsExactlyTheDeclaredLength :
    (built .or).Inv ∧ ∃ t, exec .encode (built .or) = .next t ∧ t.resp = some (.ok .empty) :=
  ⟨witness_built_Inv, _, rfl, rfl⟩
theorem witness_ComputedLengthIsTheEmittedLength :
    ∃ t u v, (built .or).HeaderLengthInv ∧ exec .complen (built .or) = .next t ∧ t.resp = some (.ok (.length 19)) ∧
      (∀ i ∈ [Instr.getlen, .getprio], onlyReads i = true) ∧ execAll [.getlen, .getprio] t = .next u ∧
      exec .encode u = .next v :=
  ⟨_, _, _, by decide, rfl, rfl, by decide, rfl, rfl⟩
/-- Both sides: the mode changes the word of the frame E9 of 95_test_vectors; it changes nothing where a premise of the last
clause holds. -/
theorem witness_PackModeChangesOnlyThePriorityWord :
    (∃ t, exec .encode (built .or) = .next t ∧ t.resp = some (.ok .empty) ∧ Priority (built .or).flags ∧
      (built .or).prio = some ⟨true, 5, 200⟩ ∧ wordBytes (packNat .or true 5) ≠ wordBytes (packNat .shiftCompat true 5)) ∧
    (∃ t, exec .encode fresh = .next t ∧ t.resp ≠ some (.ok .empty)) ∧
    ¬ Priority decoded.flags ∧
    ∀ p, ({ built .or with prio := some ⟨false, 5, 200⟩ } : State).prio = some p → p.excl = false := by
  refine ⟨⟨_, rfl, rfl, by decide, by decide, by decide⟩, ⟨_, rfl, by decide⟩, by decide, ?_⟩
  intro p h
  cases h
  rfl
theorem witness_DecodeChecksPhasePoisonAndOperandsFirst :
    decoded.phase ≠ .fresh ∧ (poisoned.phase = .fresh ∧ poisoned.rd.poisoned = true) ∧
    (fresh.phase = .fresh ∧ fresh.rd.poisoned = false ∧ ¬ DecodeOperands 256 0 0 ∧ ¬ DecodeOperands 0 16777216 0 ∧
      ¬ DecodeOperands 0 0 (-1)) := by decide
theorem witness_DecodeReadsTheFieldsOfThePayload :
    DecodeStarts (onInput [[0x02, 0x11], [0x22, 0x33, 0x99, 0x98, 0x77]] false) 0x08 6 1 ∧
    ([0x99, 0x98] : List Byte).length = (2 : Byte).toNat ∧
    (onInput [[0x02, 0x11], [0x22, 0x33, 0x99, 0x98, 0x77]] false).rd.buf.flatten =
      payload .or (BitVec.ofNat 8 (0x08 : Word).toNat) 2 ⟨false, 0, 0⟩ [0x11, 0x22, 0x33] [0x99, 0x98] ++ [0x77] ∧
    (payload .or (BitVec.ofNat 8 (0x08 : Word).toNat) 2 ⟨false, 0, 0⟩ [0x11, 0x22, 0x33] [0x99, 0x98]).length =
      (6 : Word).toNat := by decide
/-- The rows M1 to M4 and M6 of 95_test_vectors: each sub-code is reached, the last on an open stream. -/
theorem witness_TooSmallALengthIsMalformedAtOnce :
    DecodeStarts (onInput [[0x05]] false) 0x08 2 1 ∧
    (ending 0x08 0 [] matches .malformed .padLength 0) = true ∧
    (ending 0x20 4 [0x00, 0x00, 0x00, 0x01] matches .malformed .priority 0) = true ∧
    (ending 0x28 5 [0x00, 0x80, 0x00, 0x00, 0x00, 0x80] matches .malformed .priority 1) = true ∧
    (ending 0x08 4 [0x04, 0xFF, 0xFE, 0xFD] matches .malformed .padding 1) = true ∧
    (ending 0x08 2 [0x05] matches .malformed .padding 1) = true := by
  refine ⟨by decide, ?_, ?_, ?_, ?_, ?_⟩ <;> rfl
/-- The rows T1, T3 to T5 and T7 (with three bytes of padding) of 95_test_vectors: each sub-code is reached. -/
theorem witness_AClosedShortStreamIsTruncatedInput :
    DecodeStarts (onInput [[0xDE, 0xAD]] true) 0x00 4 1 ∧ (onInput [[0xDE, 0xAD]] true).rd.closed = true ∧
    (ending 0x00 4 [0xDE, 0xAD] matches .missing .headerBlock 0) = true ∧
    (ending 0x08 3 [] matches .missing .padLength 0) = true ∧
    (ending 0x20 7 [0x80, 0x00, 0x00] matches .missing .priorityWord 0) = true ∧
    (ending 0x20 7 [0x80, 0x00, 0x00, 0x05] matches .missing .weight 4) = true ∧
    (ending 0x08 7 [0x03, 0x00, 0x01, 0x02, 0x00, 0x00] matches .missing .padding 4) = true := by
  refine ⟨by decide, by decide, ?_, ?_, ?_, ?_, ?_⟩ <;> rfl
theorem witness_AnOpenShortStreamHoldsTheDecode :
    DecodeStarts (onInput [[0x05]] false) 0x08 10 1 ∧ (onInput [[0x05]] false).rd.closed = false ∧
    (ending 0x08 10 [0x05] matches .missing .headerBlock 1) = true := by
  refine ⟨by decide, by decide, rfl⟩
theorem witness_PaddingBytesDoNotMatter :
    DecodeStarts fresh 0x08 4 1 ∧ ([0xFF, 0xFE, 0xFD] : List Byte).length = (3 : Byte).toNat ∧
    ([0x00, 0x00, 0x00] : List Byte).length = (3 : Byte).toNat ∧
    (payload .or (BitVec.ofNat 8 (0x08 : Word).toNat) 3 ⟨false, 0, 0⟩ [] [0xFF, 0xFE, 0xFD]).length = (4 : Word).toNat ∧
    ([[0x03, 0xFF, 0xFE, 0xFD]] : List (List Byte)).flatten =
      payload .or (BitVec.ofNat 8 (0x08 : Word).toNat) 3 ⟨false, 0, 0⟩ [] [0xFF, 0xFE, 0xFD] ++ [] ∧
    ([[0x03, 0x00], [0x00, 0x00]] : List (List Byte)).flatten =
      payload .or (BitVec.ofNat 8 (0x08 : Word).toNat) 3 ⟨false, 0, 0⟩ [] [0x00, 0x00, 0x00] ++ [] := by decide
theorem witness_ChunkBoundariesCarryNoMeaning :
    ([[0x12, 0x34, 0x56, 0x78]] : List (List Byte)).flatten = ([[0x12], [0x34], [0x56], [0x78]] : List (List Byte)).flatten := by
  decide
theorem witness_DecodeOfEncodeIsTheSameFrame :
    (built .or).Inv ∧ (built .or).phase = .fresh ∧ (built .or).lenstale = false ∧
    (Priority (built .or).flags → (built .or).prio ≠ none) ∧ (built .or).packMode = .or ∧
    (∃ b : State, ∃ rest, b.phase = .fresh ∧ b.rd.poisoned = false ∧
      b.rd.buf.flatten = ([0x41] : List Byte) ++ rest) :=
  ⟨witness_built_Inv, rfl, rfl, by decide, rfl, onInput [[0x41, 0x42]] false, [0x42], rfl, rfl, rfl⟩
theorem witness_IntegerCodecRoundTrips :
    (onInput [[0xDE, 0xAD], [0xBE, 0xEF]] false).rd.buf.flatten = wordBytes (0xDEADBEEF : Word).toNat ++ [] ∧
    (onInput [[0xDE, 0xAD, 0xBE, 0xEF, 0x01]] false).rd.buf.flatten = 0xDE :: 0xAD :: 0xBE :: 0xEF :: [0x01] ∧
    (onInput [[0x80]] false).rd.buf.flatten = 0x80 :: [] := by decide
theorem witness_ShiftCompatPackSetsOneBit :
    (32 : Sdep).toNat % 32 = 0 ∧ (0 : Sdep).toNat % 32 = 0 ∧ (33 : Sdep).toNat % 32 = 1 ∧ 1 ≤ 1 ∧
    (2147483647 : Sdep).toNat % 32 = 31 := by decide
theorem witness_WireRowsDeliverTheBytesOfTheirLayout :
    (Instr.isWire (.priorityWord true 5) = true ∧ WellFormed (.priorityWord true 5) ∧ fresh.rd.closed = false ∧
      wireImage (.priorityWord true 5) ≠ []) ∧
    (Instr.isWire (.headersN 0 []) = true ∧ WellFormed (.headersN 0 []) ∧ wireImage (.headersN 0 []) = []) ∧
    (onInput [] true).rd.closed = true := by decide
theorem witness_FlagsByteActsAsSetflags : fresh.phase = .fresh ∧ decoded.phase ≠ .fresh := by decide
theorem witness_ADeliveredPayloadDecodesToItsFields :
    WellFormed (.headersPQ 0x2D 1 true 3 0 [0x82, 0x86, 0x84] [0x7E]) ∧
    payloadFields (.headersPQ 0x2D 1 true 3 0 [0x82, 0x86, 0x84] [0x7E]) =
      some (0x2D, 1, some ⟨true, 3, 0⟩, [0x82, 0x86, 0x84]) ∧
    deliverThenDecode.phase = .fresh ∧ deliverThenDecode.held = none ∧ deliverThenDecode.rd.poisoned = false ∧
    deliverThenDecode.rd.closed = false ∧ deliverThenDecode.rd.buf = [] ∧ 0 ≤ (1 : Word).toInt ∧
    deliverThenDecode.inputs =
      .raw (encode (.headersPQ 0x2D 1 true 3 0 [0x82, 0x86, 0x84] [0x7E])) ::
        .raw (.command (word 0x20 (BitVec.ofNat 32 (0x2D#8).toNat)
          (BitVec.ofNat 32 (wireImage (.headersPQ 0x2D 1 true 3 0 [0x82, 0x86, 0x84] [0x7E])).length) 1) []) :: [] := by
  refine ⟨by decide, by decide, rfl, rfl, rfl, rfl, rfl, by decide, rfl⟩
theorem witness_CommandsOnlyAppendToTheOutput : ∃ t, exec .encode (built .or) = .next t := ⟨_, rfl⟩
theorem witness_CommandsOnlyConsumeFromTheFrontOfTheInput :
    Command (.decode 0 1 1) ∧ ∃ t, exec (.decode 0 1 1) (onInput [[0x41, 0x42]] true) = .next t := ⟨by decide, _, rfl⟩
/-- The operands of 95_test_vectors P1. -/
theorem witness_BuildConstructsAFrameInOneStep :
    0 ≤ (0x28 : Word).toInt ∧ (0x28 : Word).toInt ≤ 255 ∧ 0 ≤ (1 : Word).toInt ∧
    (0 ≤ (3 : Word).toInt ∧ (3 : Word).toInt ≤ 255) ∧
    (0 ≤ (5 : Word).toInt ∧ 0 ≤ (1 : Word).toInt ∧ (1 : Word).toInt ≤ 1 ∧ 0 ≤ (200 : Word).toInt ∧
      (200 : Word).toInt ≤ 255) ∧
    expectedLength (BitVec.ofNat 8 (0x28 : Word).toNat) (BitVec.ofNat 8 (((some 3 : Option Word)).getD 0).toNat)
      ((([[0x41], []] : List Slice).map List.length).sum) ≤ 16777215 := by decide
theorem witness_EveryStepKeepsTheInvariant :
    ({ built .or with inputs := [.drain 1] } : State).Inv ∧
    ∃ t, step { built .or with inputs := [.drain 1] } = .next t := by
  refine ⟨by constructor <;> decide, _, rfl⟩
theorem witness_EveryStepKeepsHeaderLengthEqualToBlockSize :
    (built .or).HeaderLengthInv ∧ ∃ t, step (built .or) = .next t := ⟨by decide, _, rfl⟩
theorem witness_EveryStepKeepsTheStreamsCanonical :
    Memory.wf (holding [.close]) ∧ ∃ t, step (holding [.close]) = .next t := ⟨by decide, _, rfl⟩

end Sys2Proof.Tests
end

section
/-! When a step stops: the commands never do (00_scope R8), a delivery does on a closed stream only (20_memory R85), and what
arrives is refused by name otherwise (70_reset_and_hazards R266, R272). -/
namespace Sys2Proof.Machine
open Sys2Proof.Claims

/-! ### The meaning of an instruction: a wire row delivers its bytes, every other row has a next state -/

theorem exec_wire {i : Instr} (h : i.isWire = true) (s : State) : exec i s = s.deliver (wireBytes i) := by
  cases i with
  | headersN | headersP | headersQ | headersPQ | priorityWord => rfl
  | _ => cases h

theorem exec_next_of_not_wire {i : Instr} (h : i.isWire = false) (s : State) : ∃ t, exec i s = .next t := by
  cases i with
  | headersN | headersP | headersQ | headersPQ | priorityWord => cases h
  | _ => exact ⟨_, rfl⟩

theorem isWire_of_command {i : Instr} (h : Command i) : i.isWire = false := by
  cases i with
  | headersN | headersP | headersQ | headersPQ | priorityWord => exact absurd rfl h
  | _ => rfl

/-! ### The environment's moves, with the pending DECODE evaluated again (40_decode R141) -/

theorem resume_next (s : State) : ∃ t, resume s = .next t := by
  obtain ⟨-, h⟩ | ⟨_, -, h⟩ := resume_cases s
  · exact ⟨s, h⟩
  · rw [h]; exact exec_next_of_not_wire rfl _

theorem deliver_resume_cases (s : State) (c : List Byte) :
    (∃ t, andThen (s.deliver c) resume = .next t) ∨
      (s.rd.closed = true ∧ andThen (s.deliver c) resume = .refused .appendAfterClose) := by
  obtain ⟨hc, h⟩ | ⟨-, h⟩ := s.deliver_cases c <;> rw [h]
  · exact .inr ⟨hc, rfl⟩
  · exact .inl (resume_next _)

theorem close_resume_cases (s : State) :
    (∃ t, andThen s.close resume = .next t) ∨
      (s.rd.closed = true ∧ andThen s.close resume = .refused .closeAfterClose) := by
  obtain ⟨hc, h⟩ | ⟨-, h⟩ := s.close_cases <;> rw [h]
  · exact .inr ⟨hc, rfl⟩
  · exact .inl (resume_next _)

/-! ### Something to decode -/

theorem decodePayload_error {flags : Byte} {bytes : List Byte} {e : Reject}
    (h : decodePayload flags bytes = .error e) : e = .noLayout flags := by
  unfold decodePayload at h
  repeat' split at h
  all_goals cases h <;> rfl

theorem decodeCommand_ne_noLayout (w : CmdWord) (blk : List Slice) (f : Byte) :
    decodeCommand w blk ≠ .error (.noLayout f) := by
  unfold decodeCommand
  split <;> simp

/-- Only a payload can fit no layout, and the rejection names its own flags byte (30_encoding R102 to R105). -/
theorem payload_of_decode_noLayout {r : Raw} {f : Byte} (h : decode r = .error (.noLayout f)) :
    ∃ b, r = .payload f b := by
  cases r with
  | command w blk => exact absurd h (decodeCommand_ne_noLayout w blk f)
  | payload flags bytes => cases decodePayload_error h; exact ⟨bytes, rfl⟩
  | wireWord w => cases h
  | byte b => cases h

theorem issue_wire {r : Raw} {i : Instr} (hd : decode r = .ok i) (hw : i.isWire = true) (s : State) :
    issue r s = andThen (s.deliver (wireBytes i)) resume := by
  simp [issue, hd, hw, exec_wire]

/-- What is the host's, an illegal opcode included, is refused while a DECODE is pending (70_reset_and_hazards R266) and has
a next state otherwise. -/
theorem issue_host_cases {r : Raw} (hr : ∀ f, decode r ≠ .error (.noLayout f))
    (hw : ∀ i, decode r = .ok i → i.isWire = false) (s : State) :
    (∃ t, issue r s = .next t) ∨ (s.held ≠ none ∧ issue r s = .refused .commandWhilePending) := by
  cases hd : decode r with
  | ok i =>
    cases hh : s.held with
    | none => left; simpa [issue, hd, hw i hd, hh] using exec_next_of_not_wire (hw i hd) s
    | some h => right; simp [issue, hd, hw i hd, hh]
  | error e =>
    cases e with
    | illegalCmd op => cases hh : s.held <;> simp [issue, hd, hh]
    | noLayout f => exact absurd hd (hr f)

/-- Every way something to decode can end. -/
theorem issue_cases (r : Raw) (s : State) :
    (∃ t, issue r s = .next t) ∨
      (s.held ≠ none ∧ (∀ i, decode r = .ok i → i.isWire = false) ∧ issue r s = .refused .commandWhilePending) ∨
      (s.rd.closed = true ∧ (∃ i, decode r = .ok i ∧ i.isWire = true) ∧ issue r s = .refused .appendAfterClose) ∨
      (∃ f b, r = .payload f b ∧ decode (.payload f b) = .error (.noLayout f) ∧ issue r s = .refused .notALayout) := by
  by_cases hl : ∃ f, decode r = .error (.noLayout f)
  · obtain ⟨f, hf⟩ := hl
    obtain ⟨b, rfl⟩ := payload_of_decode_noLayout hf
    exact .inr (.inr (.inr ⟨f, b, rfl, hf, by simp [issue, hf]⟩))
  by_cases hw : ∃ i, decode r = .ok i ∧ i.isWire = true
  · obtain ⟨i, hd, hi⟩ := hw
    rw [issue_wire hd hi]
    obtain h | ⟨hc, h⟩ := deliver_resume_cases s (wireBytes i)
    · exact .inl h
    · exact .inr (.inr (.inl ⟨hc, ⟨i, hd, hi⟩, h⟩))
  · have hhost : ∀ i, decode r = .ok i → i.isWire = false := by simpa using hw
    obtain h | ⟨hh, h⟩ := issue_host_cases (not_exists.1 hl) hhost s
    · exact .inl h
    · exact .inr (.inl ⟨hh, hhost, h⟩)

/-- Settles O12: an instruction that is no wire row has a next state, so the step can stop only where the arrival itself is
refused, by `issue_cases` for something to decode and by the environment's moves for a chunk or a Close. -/
theorem onlyForbiddenMovesStopTheStep : Obligations.OnlyForbiddenMovesStopTheStep := by
  refine ⟨fun i s hi => exec_next_of_not_wire (isWire_of_command hi) s, fun s => ?_⟩
  cases hin : s.inputs with
  | nil => exact .inl ⟨s, step_idle hin⟩
  | cons x rest =>
    rw [step_of_inputs hin]
    cases x with
    | raw r =>
      obtain h | ⟨hh, hw, h⟩ | ⟨hc, ⟨i, hd, hi⟩, h⟩ | ⟨f, b, rfl, hd, h⟩ := issue_cases r { s with inputs := rest }
      · exact .inl h
      · exact .inr ⟨_, rest, rfl, .inl ⟨hh, ⟨r, rfl, hw⟩, h⟩⟩
      · exact .inr ⟨_, rest, rfl, .inr (.inl ⟨hc, .inl ⟨r, i, rfl, hd, hi⟩, h⟩)⟩
      · exact .inr ⟨_, rest, rfl, .inr (.inr (.inr (.inr ⟨f, b, rfl, hd, h⟩)))⟩
    | appendChunk c =>
      cases c with
      | nil => exact .inr ⟨_, rest, rfl, .inr (.inr (.inr (.inl ⟨rfl, rfl⟩)))⟩
      | cons b bs =>
        obtain h | ⟨hc, h⟩ := deliver_resume_cases { s with inputs := rest } (b :: bs)
        · exact .inl h
        · exact .inr ⟨_, rest, rfl, .inr (.inl ⟨hc, .inr ⟨b :: bs, by simp, rfl⟩, h⟩)⟩
    | close =>
      obtain h | ⟨hc, h⟩ := close_resume_cases { s with inputs := rest }
      · exact .inl h
      · exact .inr ⟨_, rest, rfl, .inr (.inr (.inl ⟨hc, rfl, h⟩))⟩
    | drain k => exact .inl ⟨_, rfl⟩
    | reset => exact .inl ⟨_, rfl⟩

end Sys2Proof.Machine
end

section
/-! What an instruction of the host can do to the machine, said once: every way `exec` of it can end, with the checks that
were passed on the way. The invariants of the state and the frame of the commands are read off these cases. -/
namespace Sys2Proof.Machine
open Sys2Proof.Claims

/-! ### What lines 4 to 10 of DECODE can do to the stream (40_decode R140, R141, R145) -/

/-- How a part of DECODE that started on `rd` can end: done, with bytes consumed; with a fault of the stream, with bytes
consumed; or holding, on an open stream only. -/
@[simp] def Parse.ReadsFrom {α : Type} (rd : Rd) : Parse α → Prop
  | .done _ rd' => ∃ n, rd.Consumed rd' n
  | .fault c rd' => (∀ v, c ≠ .contractViolation v) ∧ ∃ n, rd.Consumed rd' n
  | .hold => rd.closed = false

theorem Parse.readsFrom_done {α : Type} (a : α) (rd : Rd) : (Parse.done a rd).ReadsFrom rd := ⟨0, .refl rd⟩

theorem Parse.readsFrom_malformed {α : Type} (sub : MalformedSub) (rd : Rd) :
    (Parse.fault (.malformedFrame sub) rd : Parse α).ReadsFrom rd := ⟨by simp, 0, .refl rd⟩

theorem Parse.ReadsFrom.andThen {α β : Type} {rd : Rd} {p : Parse α} {k : α → Rd → Parse β} (hp : p.ReadsFrom rd)
    (hk : ∀ a rd', (k a rd').ReadsFrom rd') : (p.andThen k).ReadsFrom rd := by
  cases p with
  | fault c rd' => exact hp
  | hold => exact hp
  | done a rd1 =>
    obtain ⟨m, hm⟩ := hp
    have hk1 := hk a rd1
    simp only [Parse.andThen]
    cases hka : k a rd1 with
    | done b rd2 => rw [hka] at hk1; obtain ⟨n, hn⟩ := hk1; exact ⟨m + n, hm.trans hn⟩
    | fault c rd2 => rw [hka] at hk1; obtain ⟨hc, n, hn⟩ := hk1; exact ⟨hc, m + n, hm.trans hn⟩
    | hold => rw [hka] at hk1; exact hm.closed.symm.trans hk1

/-- Every read primitive is one `MemRead`, so a part of DECODE that is one primitive reads from the stream. -/
theorem Parse.readsFrom_ofRead {α : Type} {rd : Rd} {sub : TruncatedSub} {r : ReadResult α} {n : Nat}
    (hdone : ∀ a rd', r = .done a rd' → ∃ b, rd.memRead n = .done b rd') (hhold : r = .hold → rd.memRead n = .hold) :
    (Parse.ofRead rd sub r).ReadsFrom rd := by
  cases r with
  | done a rd' => obtain ⟨b, hb⟩ := hdone a rd' rfl; exact ⟨n, .of_memRead hb⟩
  | short => exact ⟨by simp, 0, .refl rd⟩
  | hold => exact ((rd.memRead_hold_iff n).1 (hhold rfl)).2

theorem Rd.rdU8_readsFrom (rd : Rd) (sub : TruncatedSub) : (Parse.ofRead rd sub rd.rdU8).ReadsFrom rd :=
  Parse.readsFrom_ofRead (fun _ _ h => ⟨_, (Rd.rdU8_done h).1⟩)
    fun h => by unfold Rd.rdU8 at h; cases hm : rd.memRead 1 <;> simp_all

theorem Rd.rdU32BE_readsFrom (rd : Rd) (sub : TruncatedSub) : (Parse.ofRead rd sub rd.rdU32BE).ReadsFrom rd :=
  Parse.readsFrom_ofRead (fun _ _ h => let ⟨_, _, _, _, _, hm, _⟩ := Rd.rdU32BE_done h; ⟨_, hm⟩)
    fun h => by unfold Rd.rdU32BE at h; cases hm : rd.memRead 4 <;> simp_all

theorem Rd.rdSlices_readsFrom (rd : Rd) (sub : TruncatedSub) (sizes : List Nat) (n : Nat) :
    (Parse.ofRead rd sub (rd.rdSlices sizes n)).ReadsFrom rd :=
  Parse.readsFrom_ofRead (fun _ _ h => ⟨_, (Rd.rdSlices_done h).1⟩)
    fun h => by unfold Rd.rdSlices at h; cases hm : rd.memRead n <;> simp_all

theorem Rd.rdSkip_readsFrom (rd : Rd) (sub : TruncatedSub) (n : Nat) :
    (Parse.ofRead rd sub (rd.rdSkip n)).ReadsFrom rd :=
  Parse.readsFrom_ofRead (fun _ _ h => Rd.rdSkip_done h)
    fun h => by unfold Rd.rdSkip at h; cases hm : rd.memRead n <;> simp_all

theorem parsePadLength_readsFrom (padded : Bool) (rem : Nat) (rd : Rd) : (parsePadLength padded rem rd).ReadsFrom rd := by
  unfold parsePadLength
  split
  · split
    · exact Parse.readsFrom_malformed _ rd
    · exact (rd.rdU8_readsFrom _).andThen fun _ => Parse.readsFrom_done _
  · exact Parse.readsFrom_done _ rd

theorem parsePriority_readsFrom (priority : Bool) (rem : Nat) (rd : Rd) :
    (parsePriority priority rem rd).ReadsFrom rd := by
  unfold parsePriority
  split
  · split
    · exact Parse.readsFrom_malformed _ rd
    · exact (rd.rdU32BE_readsFrom _).andThen fun _ rd1 => (rd1.rdU8_readsFrom _).andThen fun _ => Parse.readsFrom_done _
  · exact Parse.readsFrom_done _ rd

theorem parseBlocks_readsFrom (sizes : List Nat) (p : Byte) (rem : Nat) (rd : Rd) :
    (parseBlocks sizes p rem rd).ReadsFrom rd := by
  unfold parseBlocks
  split
  · exact Parse.readsFrom_malformed _ rd
  · exact (rd.rdSlices_readsFrom _ _ _).andThen fun _ rd1 => (rd1.rdSkip_readsFrom _ _).andThen fun _ =>
      Parse.readsFrom_done _

theorem parsePayload_readsFrom (sizes : List Nat) (f : Byte) (L : Nat) (rd : Rd) :
    (parsePayload sizes f L rd).ReadsFrom rd :=
  (parsePadLength_readsFrom _ L rd).andThen fun pr rd1 => (parsePriority_readsFrom _ pr.2 rd1).andThen fun qr rd2 =>
    (parseBlocks_readsFrom sizes pr.1 qr.2 rd2).andThen fun _ => Parse.readsFrom_done _

theorem parsePayload_hold_open {sizes : List Nat} {f : Byte} {L : Nat} {rd : Rd}
    (h : parsePayload sizes f L rd = .hold) : rd.closed = false := by
  simpa [h] using parsePayload_readsFrom sizes f L rd

theorem parsePayload_fault_consumed {sizes : List Nat} {f : Byte} {L : Nat} {rd rd' : Rd} {c : Cause}
    (h : parsePayload sizes f L rd = .fault c rd') : (∀ v, c ≠ .contractViolation v) ∧ ∃ n, rd.Consumed rd' n := by
  simpa [h] using parsePayload_readsFrom sizes f L rd

theorem parsePayload_done_consumed {sizes : List Nat} {f : Byte} {L : Nat} {rd rd' : Rd} {p : Payload}
    (h : parsePayload sizes f L rd = .done p rd') : ∃ n, rd.Consumed rd' n := by
  simpa [h] using parsePayload_readsFrom sizes f L rd

/-- What a payload that was read says of its fields: the gated ones hold no value of their own without their flag
(40_decode R143), and the lengths add up to the declared one (30_encoding R116). -/
theorem parsePayload_done {sizes : List Nat} {f : Byte} {L : Nat} {rd rd' : Rd} {p : Payload}
    (h : parsePayload sizes f L rd = .done p rd') :
    p.hlen = size p.blocks ∧ (flagPadded f = false → p.pad = 0#8) ∧ p.prio.isSome = flagPriority f ∧
      L = (if flagPadded f then 1 + p.pad.toNat else 0) + (if flagPriority f then 5 else 0) + p.hlen := by
  obtain ⟨pr, rd1, h1, h⟩ := Parse.andThen_done h
  obtain ⟨qr, rd2, h2, h⟩ := Parse.andThen_done h
  obtain ⟨bh, rd3, h3, h⟩ := Parse.andThen_done h
  cases h
  obtain ⟨-, hlen1, hpad, -⟩ := parsePadLength_done h1
  obtain ⟨-, hlen2, hnone, hsome⟩ := parsePriority_done h2
  obtain ⟨-, hlen3, -, hsize⟩ := parseBlocks_done h3
  refine ⟨hsize.symm, hpad, ?_, ?_⟩
  · cases hq : flagPriority f with
    | false => simp [hnone hq]
    | true => obtain ⟨_, _, _, _, _, -, hp⟩ := hsome hq; simp [hp]
  · cases hp : flagPadded f with
    | false => simp_all
    | true => simp_all; omega

/-! ### Every way an instruction of the host can end -/

/-- `CommandEffect i s t`: one of the ways the instruction `i`, no wire row, can take `s` to `t`. -/
inductive CommandEffect : Instr → State → State → Prop
  /-- The phase forbids it (10_state R34). -/
  | badPhase {i : Instr} {s : State} (hp : permitted i s.phase = false) :
    CommandEffect i s (s.raise (.contractViolation .badPhase))
  /-- Another of its checks fails. -/
  | violation {i : Instr} {s : State} {v : ContractSub} (hp : permitted i s.phase = true) (hv : v ≠ .badPhase) :
    CommandEffect i s (s.raise (.contractViolation v))
  /-- It only reads. -/
  | read {i : Instr} {s : State} (v : Value) (hp : permitted i s.phase = true) (hr : onlyReads i = true) :
    CommandEffect i s (s.respond v)
  | new {s : State} : CommandEffect .new s (s.newFrame.respond .empty)
  | setflags {s : State} (f : Word) (hp : s.phase = .fresh) :
    CommandEffect (.setflags f) s ({ s with flags := low8 f, lenstale := true }.respond .empty)
  | flagsByte {s : State} (f : Byte) (hp : s.phase = .fresh) :
    CommandEffect (.flagsByte f) s ({ s with flags := f, lenstale := true }.respond .empty)
  | setsid {s : State} (x : Word) (hp : s.phase = .fresh) :
    CommandEffect (.setsid x) s ({ s with sid := low31 x }.respond .empty)
  | setpad {s : State} (n : Word) (hp : s.phase = .fresh) :
    CommandEffect (.setpad n) s ({ s with pad := low8 n, lenstale := true }.respond .empty)
  | setprio {s : State} (d e g : Word) (hp : s.phase = .fresh) :
    CommandEffect (.setprio d e g) s
      ({ s with prio := some { excl := low1 e, sdep := low31 d, weight := low8 g }, lenstale := true }.respond .empty)
  | setblocks {s : State} (b : List Slice) (hp : s.phase = .fresh) :
    CommandEffect (.setblocks b) s ({ s with hblk := some b, hlen := some (size b), lenstale := true }.respond .empty)
  | complen {s : State} (hp : s.phase = .fresh) (hb : s.hblk ≠ none) (hl : s.expLen ≤ lenMax) :
    CommandEffect .complen s ({ s with len := BitVec.ofNat 24 s.expLen, lenstale := false }.respond
      (.length (BitVec.ofNat 24 s.expLen)))
  | encode {s : State} (hp : s.phase = .fresh) (hl : s.lenstale = false)
      (hq : flagPriority s.flags = true → s.prio.isSome = true) :
    CommandEffect .encode s
      ({ s with wr := s.emitPayload (s.wr.memWrite s.headerBytes), phase := .serialized }.respond .empty)
  | decodeHold {s : State} {f l x : Word} (hp : s.phase = .fresh) (hpo : s.rd.poisoned = false)
      (hh : parsePayload (Config.sliceSizes s.draws) (low8 f) (low24 l).toNat s.rd = .hold) :
    CommandEffect (.decode f l x) s { s with held := some { f := f, l := l, s := x }, resp := none }
  | decodeFault {s : State} {f l x : Word} {c : Cause} {rd : Rd} (hp : s.phase = .fresh)
      (hh : parsePayload (Config.sliceSizes s.draws) (low8 f) (low24 l).toNat s.rd = .fault c rd) :
    CommandEffect (.decode f l x) s (s.streamFault rd c)
  | decodeDone {s : State} {f l x : Word} {p : Payload} {rd : Rd} (hp : s.phase = .fresh) (hpo : s.rd.poisoned = false)
      (hh : parsePayload (Config.sliceSizes s.draws) (low8 f) (low24 l).toNat s.rd = .done p rd) :
    CommandEffect (.decode f l x) s
      ({ s with
        flags := low8 f, len := low24 l, sid := low31 x, pad := p.pad, prio := p.prio, hblk := some p.blocks
        hlen := some p.hlen, lenstale := false, phase := .decoded, rd := rd, draws := s.draws + 1 }.respond .empty)

/-- An instruction permitted in FRESH only (10_state R34). -/
theorem CommandEffect.of_ifFresh {i : Instr} {s body : State} (hi : ∀ p, permitted i p = (p == .fresh))
    (h : s.phase = .fresh → permitted i s.phase = true → CommandEffect i s body) : CommandEffect i s (s.ifFresh body) := by
  obtain ⟨hp, he⟩ | ⟨hp, he⟩ := s.ifFresh_cases body <;> rw [he]
  · exact h hp (by simp [hi, hp])
  · exact .badPhase (by simp [hi, hp])

/-- An instruction permitted in every phase but FAULTED (10_state R34). -/
theorem CommandEffect.of_ifReadable {i : Instr} {s body : State} (hi : ∀ p, permitted i p = (p != .faulted))
    (h : permitted i s.phase = true → CommandEffect i s body) : CommandEffect i s (s.ifReadable body) := by
  obtain ⟨hp, he⟩ | ⟨hp, he⟩ := s.ifReadable_cases body <;> rw [he]
  · exact h (by simp [hi, hp])
  · exact .badPhase (by simp [hi, hp])

/-- A read that is permitted in every phase but FAULTED and has no further check. -/
theorem CommandEffect.of_getter {i : Instr} {s : State} {v : Value} (hi : ∀ p, permitted i p = (p != .faulted))
    (hr : onlyReads i = true) : CommandEffect i s (s.ifReadable (s.respond v)) :=
  .of_ifReadable hi fun hp => .read v hp hr

/-- A setter: the range check, then the one write. -/
theorem CommandEffect.of_setter {i : Instr} {s body : State} {inRange : Bool} (hi : ∀ p, permitted i p = (p == .fresh))
    (h : s.phase = .fresh → CommandEffect i s body) :
    CommandEffect i s (s.ifFresh (if inRange then body else s.raise (.contractViolation .range))) :=
  .of_ifFresh hi fun hf hp => by
    cases inRange with
    | true => exact h hf
    | false => exact .violation hp (by simp)

/-! ### The flags byte as an operand (30_encoding R127) -/

@[simp] theorem flagsInRange_setWidth (f : Byte) : flagsInRange (f.setWidth 32) = true := by
  have hf := f.isLt
  have hmod : f.toNat % 2 ^ 32 = f.toNat := Nat.mod_eq_of_lt (by omega)
  simp only [flagsInRange, inRange, BitVec.toInt_eq_toNat_cond, BitVec.toNat_setWidth, hmod, decide_eq_true_eq]
  split <;> omega

@[simp] theorem low8_setWidth (f : Byte) : low8 (f.setWidth 32) = f := by
  apply BitVec.eq_of_toNat_eq
  simpa [low8] using f.isLt

theorem exec_flagsByte (f : Byte) (s : State) :
    exec (.flagsByte f) s = .next (s.ifFresh ({ s with flags := f, lenstale := true }.respond .empty)) := by
  simp [exec, execFlagsByte, execSetflags]

/-! ### The commands with more than one check -/

theorem execGetprio_effect (s : State) : ∃ t, execGetprio s = .next t ∧ CommandEffect .getprio s t := by
  refine ⟨_, rfl, .of_ifReadable (fun _ => rfl) fun hp => ?_⟩
  split
  · split
    · exact .violation hp (by simp)
    · exact .read _ hp rfl
  · exact .read _ hp rfl

theorem execComplen_effect (s : State) : ∃ t, execComplen s = .next t ∧ CommandEffect .complen s t := by
  refine ⟨_, rfl, .of_ifFresh (fun _ => rfl) fun hf hp => ?_⟩
  split
  · exact .violation hp (by simp)
  · next hb =>
    split
    · exact .violation hp (by simp)
    · next hl => exact .complen hf hb (Nat.le_of_not_lt hl)

theorem execEncode_effect (s : State) : ∃ t, execEncode s = .next t ∧ CommandEffect .encode s t := by
  refine ⟨_, rfl, .of_ifFresh (fun _ => rfl) fun hf hp => ?_⟩
  split
  · exact .violation hp (by simp)
  · next hl =>
    split
    · exact .violation hp (by simp)
    · next hq => exact .encode hf (by simpa using hl) fun hq1 => by cases hs : s.prio <;> simp_all

theorem execDecode_effect (f l x : Word) (s : State) :
    ∃ t, execDecode f l x s = .next t ∧ CommandEffect (.decode f l x) s t := by
  refine ⟨_, rfl, .of_ifFresh (fun _ => rfl) fun hf hp => ?_⟩
  split
  · exact .violation hp (by simp)
  · next hpo =>
    have hpo : s.rd.poisoned = false := by simpa using hpo
    split
    · unfold decodeBody
      split
      · next hh => exact .decodeHold hf hpo hh
      · next hh => exact .decodeFault hf hh
      · next hh => exact .decodeDone hf hpo hh
    · exact .violation hp (by simp)

/-- Every instruction that is no wire row has a next state, by one of the effects. -/
theorem exec_effect {i : Instr} (hi : i.isWire = false) (s : State) : ∃ t, exec i s = .next t ∧ CommandEffect i s t := by
  cases i with
  | headersN | headersP | headersQ | headersPQ | priorityWord => cases hi
  | new => exact ⟨_, rfl, .new⟩
  | setflags f => exact ⟨_, rfl, .of_setter (fun _ => rfl) (.setflags f)⟩
  | setsid x => exact ⟨_, rfl, .of_setter (fun _ => rfl) (.setsid x)⟩
  | setpad n => exact ⟨_, rfl, .of_setter (fun _ => rfl) (.setpad n)⟩
  | setprio d e g => exact ⟨_, rfl, .of_setter (fun _ => rfl) (.setprio d e g)⟩
  | setblocks b => exact ⟨_, rfl, .of_ifFresh (fun _ => rfl) fun hf _ => .setblocks b hf⟩
  | flagsByte f => exact ⟨_, exec_flagsByte f s, .of_ifFresh (fun _ => rfl) fun hf _ => .flagsByte f hf⟩
  | gettype | getflags | getlen | getsid | getpad | ispadded | hasprio | endhdrs =>
    exact ⟨_, rfl, .of_getter (fun _ => rfl) rfl⟩
  | flagname | getstatus => exact ⟨_, rfl, .read _ rfl rfl⟩
  | getprio => exact execGetprio_effect s
  | gethlen | getblocks =>
    refine ⟨_, rfl, .of_ifReadable (fun _ => rfl) fun hp => ?_⟩
    split
    · exact .violation hp (by simp)
    · exact .read _ hp rfl
  | complen => exact execComplen_effect s
  | encode => exact execEncode_effect s
  | decode f l x => exact execDecode_effect f l x s

theorem CommandEffect.of_exec {i : Instr} {s t : State} (hi : i.isWire = false) (h : exec i s = .next t) :
    CommandEffect i s t := by
  obtain ⟨t', ht, he⟩ := exec_effect hi s
  cases ht.symm.trans h
  exact he

end Sys2Proof.Machine
end

section
/-! The invariant of the machine, part by part: each part is kept by every instruction and every move of the environment,
so by every step (10_state R31, R36 to R38, 40_decode R143, 60_exceptions R232). -/
namespace Sys2Proof.Machine
open Sys2Proof.Claims

/-! ### What is kept by all that can arrive, but RESET, is kept by the step -/

/-- `P` is kept by everything that can happen to the machine but RESET. After a delivery and a Close a pending DECODE is
evaluated again, so `P` is asked of the state in which nothing is pending any more (40_decode R141). -/
structure KeptByMoves (P : State → Prop) : Prop where
  arrival : ∀ {s} rest, P s → P { s with inputs := rest }
  effect : ∀ {i s t}, s.held = none → CommandEffect i s t → P s → P t
  illegal : ∀ {s}, s.held = none → P s → P (s.raise (.contractViolation .illegalCmd))
  append : ∀ {s} c, P s → P { s with rd := s.rd.append c, held := none }
  close : ∀ {s}, P s → P { s.endInput with held := none }
  drain : ∀ {s} k, P s → P (s.drain k)

theorem KeptByMoves.resume {P : State → Prop} (hP : KeptByMoves P) {s t : State} (hs : P { s with held := none })
    (h : resume s = .next t) : P t := by
  obtain ⟨hn, hr⟩ | ⟨q, -, hr⟩ := resume_cases s
  · cases hr.symm.trans h
    have hsame : { s with held := none } = s := by rw [← hn]
    exact hsame ▸ hs
  · exact hP.effect rfl (.of_exec rfl (hr.symm.trans h)) hs

theorem KeptByMoves.deliver {P : State → Prop} (hP : KeptByMoves P) {s t : State} {c : List Byte} (hs : P s)
    (h : andThen (s.deliver c) Machine.resume = .next t) : P t := by
  obtain ⟨-, hd⟩ | ⟨-, hd⟩ := s.deliver_cases c <;> rw [hd] at h
  · cases h
  · exact hP.resume (hP.append c hs) h

theorem KeptByMoves.issue {P : State → Prop} (hP : KeptByMoves P) {s t : State} {r : Raw} (hs : P s)
    (h : issue r s = .next t) : P t := by
  cases hd : decode r with
  | error e =>
    cases e with
    | noLayout f => simp [Machine.issue, hd] at h
    | illegalCmd op =>
      cases hh : s.held with
      | some q => simp [Machine.issue, hd, hh] at h
      | none =>
        simp only [Machine.issue, hd, hh, Option.isSome_none, Bool.false_eq_true, if_false] at h
        cases h
        exact hP.illegal hh hs
  | ok i =>
    cases hw : i.isWire with
    | true => exact hP.deliver hs ((issue_wire hd hw s).symm.trans h)
    | false =>
      cases hh : s.held with
      | some q => simp [Machine.issue, hd, hw, hh] at h
      | none => exact hP.effect hh (.of_exec hw (by simpa [Machine.issue, hd, hw, hh] using h)) hs

theorem KeptByMoves.step {P : State → Prop} (hP : KeptByMoves P) {s t : State}
    (hreset : (∃ rest, s.inputs = .reset :: rest) → ∀ u : State, P u.resetInput) (hs : P s) (h : step s = .next t) :
    P t := by
  cases hin : s.inputs with
  | nil => cases (step_idle hin).symm.trans h; exact hs
  | cons x rest =>
    rw [step_of_inputs hin] at h
    have hs1 := hP.arrival rest hs
    cases x with
    | raw r => exact hP.issue hs1 h
    | appendChunk c =>
      cases c with
      | nil => cases h
      | cons b bs => exact hP.deliver hs1 h
    | close =>
      obtain ⟨-, hc⟩ | ⟨-, hc⟩ := State.close_cases { s with inputs := rest }
      · simp [accept, hc, andThen] at h
      · exact hP.resume (hP.close hs1) (by simpa [accept, hc, andThen] using h)
    | drain k => cases h; exact hP.drain k hs1
    | reset => cases h; exact hreset ⟨rest, hin⟩ _

/-! ### Bits of FSR: the fault entry only sets them (60_exceptions R224) -/

theorem or_keeps_bits {w : Nat} {a b : BitVec w} (c : BitVec w) (h : a &&& b = b) : (a ||| c) &&& b = b := by
  rw [BitVec.and_or_distrib_right, h]
  ext i hi
  simp +contextual

theorem or_has_bits {w : Nat} (a b : BitVec w) : (a ||| b) &&& b = b := by
  rw [BitVec.or_comm]
  exact or_keeps_bits a BitVec.and_self

theorem or_keeps_and_ne_zero {w : Nat} {a m : BitVec w} (c : BitVec w) (h : a &&& m ≠ 0#w) : (a ||| c) &&& m ≠ 0#w := by
  rw [BitVec.and_or_distrib_right]
  exact fun h0 => h (BitVec.or_eq_zero_iff.1 h0).1

/-- A fault of the stream sets `TRUNC` or `MALFORMED`. -/
theorem fsrBit_of_stream {c : Cause} (h : ∀ v, c ≠ .contractViolation v) (a : BitVec 3) :
    (a ||| c.fsrBit) &&& 0b101#3 ≠ 0#3 := by
  rw [BitVec.or_comm]
  cases c with
  | truncatedInput sub => exact or_keeps_and_ne_zero a (by simp [Cause.fsrBit, Cause.kindCode])
  | malformedFrame sub => exact or_keeps_and_ne_zero a (by simp [Cause.fsrBit, Cause.kindCode])
  | contractViolation v => exact absurd rfl (h v)

/-! ### The parts of the invariant -/

/-- The canonical form of the streams: reads drop emptied chunks, writes of no bytes append nothing (log 18). -/
theorem keptByMoves_memoryWf : KeptByMoves Memory.wf where
  arrival _ hs := hs
  effect _ he hs := by
    obtain ⟨hrd, hwr⟩ := hs
    cases he with
    | encode => exact ⟨hrd, State.emitPayload_keeps_wf _ (Wr.memWrite_keeps_wf _ hwr)⟩
    | decodeFault _ hh =>
      obtain ⟨-, n, hn⟩ := parsePayload_fault_consumed hh
      exact ⟨hn.wf hrd, hwr⟩
    | decodeDone _ _ hh =>
      obtain ⟨n, hn⟩ := parsePayload_done_consumed hh
      exact ⟨hn.wf hrd, hwr⟩
    | _ => exact ⟨hrd, hwr⟩
  illegal _ hs := hs
  append c hs := ⟨Rd.append_keeps_wf c hs.1, hs.2⟩
  close hs := hs
  drain k hs := ⟨hs.1, drainSegs_keeps_wf k _ hs.2⟩

/-- INV-HB: `HBLK` and `HLEN` are written together only (10_state R30, R31). -/
theorem keptByMoves_headerLengthInv : KeptByMoves State.HeaderLengthInv where
  arrival _ hs := hs
  effect _ he hs := by
    cases he with
    | new | setblocks | decodeFault => rfl
    | decodeDone _ _ hh =>
      obtain ⟨hsize, -⟩ := parsePayload_done hh
      exact congrArg some hsize
    | _ => exact hs
  illegal _ hs := hs
  append _ hs := hs
  close hs := hs
  drain _ hs := hs

/-- INV-LEN: whatever changes a summand of `ExpLen` makes the length stale (10_state R31, R35). -/
theorem keptByMoves_lengthInv : KeptByMoves State.LengthInv where
  arrival _ hs := hs
  effect {i s t} _ he hs := by
    obtain ⟨hstale, hlen⟩ := hs
    cases he with
    | badPhase | violation | decodeFault | new => simp [State.LengthInv]
    | setflags _ hp | flagsByte _ hp | setpad _ hp | setprio _ _ _ hp | setblocks _ hp => simp [State.LengthInv, hp]
    | read | setsid | decodeHold => exact ⟨hstale, hlen⟩
    | complen hp hb hl =>
      refine ⟨by simp, fun _ _ => ⟨Option.isSome_iff_ne_none.2 hb, ?_⟩⟩
      exact (BitVec.toNat_ofNat _ _).trans (Nat.mod_eq_of_lt (Nat.lt_succ_of_le hl))
    | encode hp hl _ => exact ⟨fun _ => hl, fun _ _ => hlen (by simp [hp]) hl⟩
    | decodeDone _ _ hh =>
      obtain ⟨-, -, -, hL⟩ := parsePayload_done hh
      exact ⟨fun _ => rfl, fun _ _ => ⟨rfl, hL⟩⟩
  illegal _ _ := by simp [State.LengthInv]
  append _ hs := hs
  close hs := hs
  drain _ hs := hs

/-- The fault entry records a cause with its bit and keeps the bit of the one recorded before (10_state R36); what the
poison bit asks of FSR is left to the caller, since some faults poison the reader and others do not. -/
theorem State.faultInv_raise {s : State} {c : Cause} (hbit : ∀ c', s.fcause = some c' → s.fsr &&& c'.fsrBit = c'.fsrBit)
    (hpoison : s.rd.poisoned = true → (s.fsr ||| c.fsrBit) &&& 0b101#3 ≠ 0#3) : (s.raise c).FaultInv := by
  refine ⟨by simp, fun c' hc' => ?_, hpoison⟩
  cases hf : s.fcause with
  | none =>
    obtain rfl : c = c' := by simpa [hf] using hc'
    exact or_has_bits _ _
  | some first =>
    obtain rfl : first = c' := by simpa [hf] using hc'
    exact or_keeps_bits _ (hbit first hf)

theorem State.FaultInv.raise {s : State} (hs : s.FaultInv) (c : Cause) : (s.raise c).FaultInv := by
  obtain ⟨-, hbit, hpoison⟩ := hs
  exact State.faultInv_raise hbit fun h => or_keeps_and_ne_zero _ (hpoison h)

/-- The status group: PHASE, FCAUSE, FSR and the poison bit agree (10_state R36, 60_exceptions R224). -/
theorem keptByMoves_faultInv : KeptByMoves State.FaultInv where
  arrival _ hs := hs
  effect {i s t} _ he hs := by
    have hraise := hs.raise
    obtain ⟨hcause, hbit, hpoison⟩ := hs
    have hnone : s.phase = .fresh → s.fcause = none := fun hp => by simpa [hp] using hcause
    cases he with
    | badPhase | violation => exact hraise _
    | new => exact ⟨by simp, by simp, hpoison⟩
    | encode hp => exact ⟨by simp [hnone hp], hbit, hpoison⟩
    | decodeFault _ hh =>
      obtain ⟨hc, -⟩ := parsePayload_fault_consumed hh
      exact State.faultInv_raise hbit fun _ => fsrBit_of_stream hc _
    | decodeDone hp hpo hh =>
      obtain ⟨n, hn⟩ := parsePayload_done_consumed hh
      exact ⟨by simp [hnone hp], hbit, fun h => hpoison (hn.poisoned.symm.trans h)⟩
    | _ => exact ⟨hcause, hbit, hpoison⟩
  illegal _ hs := hs.raise _
  append c hs := by
    obtain ⟨hcause, hbit, hpoison⟩ := hs
    exact ⟨hcause, hbit, by cases c <;> exact hpoison⟩
  close hs := hs
  drain _ hs := hs

/-- Gating: only DECODE and ENCODE leave FRESH, and both check or set the gated values (40_decode R143, 42_encode R160). -/
theorem keptByMoves_gatingInv : KeptByMoves State.GatingInv where
  arrival _ hs := hs
  effect {i s t} _ he hs := by
    cases he with
    | badPhase | violation | decodeFault | new => simp [State.GatingInv]
    | setflags _ hp | flagsByte _ hp | setpad _ hp | setprio _ _ _ hp => simp [State.GatingInv, hp]
    | encode _ _ hq => exact ⟨by simp, fun _ => hq⟩
    | decodeDone _ _ hh =>
      obtain ⟨-, hpad, hprio, -⟩ := parsePayload_done hh
      exact ⟨fun _ => ⟨hpad, hprio⟩, by simp⟩
    | _ => exact hs
  illegal _ _ := by simp [State.GatingInv]
  append _ hs := hs
  close hs := hs
  drain _ hs := hs

theorem State.heldInv_of_none {s : State} (h : s.held = none) : s.HeldInv := by simp [State.HeldInv, h]

/-- A hold: only DECODE makes one, on a fresh frame and an open, unpoisoned stream (40_decode R141, 60_exceptions R232). -/
theorem keptByMoves_heldInv : KeptByMoves State.HeldInv where
  arrival _ hs := hs
  effect {i s t} hn he hs := by
    cases he with
    | decodeHold hp hpo hh => exact fun _ => ⟨hp, parsePayload_hold_open hh, hpo, rfl⟩
    | _ => exact State.heldInv_of_none hn
  illegal hn _ := State.heldInv_of_none hn
  append _ _ := State.heldInv_of_none rfl
  close _ := State.heldInv_of_none rfl
  drain _ hs := hs

/-- Lines 5 to 8 of ENCODE count every byte they append (10_state R38). -/
theorem State.emitPayload_keeps_length_le_pos (s : State) {wr : Wr} (h : wr.content.length ≤ wr.pos) :
    (s.emitPayload wr).content.length ≤ (s.emitPayload wr).pos := by
  have hpos := s.content_emitPayload_length wr
  omega

/-- Undrained output was appended: ENCODE counts what it appends, Drain only removes (10_state R38). -/
theorem keptByMoves_outputInv : KeptByMoves State.OutputInv where
  arrival _ hs := hs
  effect {i s t} _ he hs := by
    cases he with
    | encode => exact State.emitPayload_keeps_length_le_pos _ (by simpa [State.OutputInv] using hs)
    | _ => exact hs
  illegal _ hs := hs
  append _ hs := hs
  close hs := hs
  drain {s} k hs := by
    have hc : (s.drain k).wr.content = s.wr.content.drop k := content_drainSegs k s.wr.segs
    rw [State.OutputInv, hc, List.length_drop]
    exact (Nat.sub_le _ _).trans hs

/-! ### The whole invariant -/

/-- Settles O57: every register has its value of 10_state R43, under which each part of the invariant is evident. -/
theorem invariantHoldsAtReset : Obligations.InvariantHoldsAtReset where
  memory := by decide
  headerLength := rfl
  length := by decide
  faults := ⟨by decide, by simp [State.reset], by decide⟩
  gating := by decide
  held := by decide
  output := by decide

/-- The RESET input gives every register the invariant speaks of its value in the reset state. -/
theorem State.inv_resetInput (s : State) : s.resetInput.Inv where
  memory := invariantHoldsAtReset.memory
  headerLength := invariantHoldsAtReset.headerLength
  length := invariantHoldsAtReset.length
  faults := invariantHoldsAtReset.faults
  gating := invariantHoldsAtReset.gating
  held := invariantHoldsAtReset.held
  output := invariantHoldsAtReset.output

/-- Settles O60, as the first part of the invariant. -/
theorem everyStepKeepsTheStreamsCanonical : Obligations.EveryStepKeepsTheStreamsCanonical :=
  fun _ _ => keptByMoves_memoryWf.step fun _ u => u.inv_resetInput.memory

/-- Settles O59, as the second part of the invariant. -/
theorem everyStepKeepsHeaderLengthEqualToBlockSize : Obligations.EveryStepKeepsHeaderLengthEqualToBlockSize :=
  fun _ _ => keptByMoves_headerLengthInv.step fun _ u => u.inv_resetInput.headerLength

/-- Settles O58: each part of the invariant is kept by every move on its own, and holds after RESET. -/
theorem everyStepKeepsTheInvariant : Obligations.EveryStepKeepsTheInvariant := fun s t hs h => {
  memory := everyStepKeepsTheStreamsCanonical s t hs.memory h
  headerLength := everyStepKeepsHeaderLengthEqualToBlockSize s t hs.headerLength h
  length := keptByMoves_lengthInv.step (fun _ u => u.inv_resetInput.length) hs.length h
  faults := keptByMoves_faultInv.step (fun _ u => u.inv_resetInput.faults) hs.faults h
  gating := keptByMoves_gatingInv.step (fun _ u => u.inv_resetInput.gating) hs.gating h
  held := keptByMoves_heldInv.step (fun _ u => u.inv_resetInput.held) hs.held h
  output := keptByMoves_outputInv.step (fun _ u => u.inv_resetInput.output) hs.output h }

end Sys2Proof.Machine
end

section
/-! What the commands write: the phase table (10_state R34), the fault group (R36), the access table (R42), the lifecycle
(R33) and the stale length (R35), each read off the effects; and the reset table (R43). -/
namespace Sys2Proof.Machine
open Sys2Proof.Claims

/-- The fault entry of the model is the one of the statements (60_exceptions R224). -/
theorem State.raise_eq_faulted (s : State) (c : Cause) : s.raise c = faulted s c := by
  cases c <;> cases hf : s.fcause <;> simp [State.raise, faulted, hf, Cause.fsrBit, Cause.kindCode]

/-- Where the table forbids the command, nothing but the BAD_PHASE entry is left of its effects. -/
theorem CommandEffect.eq_of_not_permitted {i : Instr} {s t : State} (he : CommandEffect i s t)
    (hp : permitted i s.phase = false) : t = s.raise (.contractViolation .badPhase) := by
  cases he with
  | badPhase => rfl
  | violation hp' | read _ hp' => simp [hp'] at hp
  | new => cases hp
  | setflags _ hf | flagsByte _ hf | setsid _ hf | setpad _ hf | setprio _ _ _ hf | setblocks _ hf | complen hf | encode hf
  | decodeHold hf | decodeFault hf | decodeDone hf => simp [permitted, hf] at hp

/-- Where the table permits the command, BAD_PHASE is not among its outcomes. -/
theorem CommandEffect.resp_ne_badPhase {i : Instr} {s t : State} (he : CommandEffect i s t)
    (hp : permitted i s.phase = true) : t.resp ≠ some (.fault (.contractViolation .badPhase)) := by
  cases he with
  | badPhase hp' => simp [hp'] at hp
  | violation _ hv => simpa using hv
  | decodeFault _ hh =>
    obtain ⟨hc, -⟩ := parsePayload_fault_consumed hh
    simpa using hc .badPhase
  | _ => simp

/-- Settles O13: a command has exactly one next state, and the two lemmas before say which effects the table leaves. -/
theorem commandsArePermittedByPhaseAsTheTableSays : Obligations.CommandsArePermittedByPhaseAsTheTableSays := by
  intro i s hi
  refine ⟨fun hp => ?_, fun hp t ht => (CommandEffect.of_exec (isWire_of_command hi) ht).resp_ne_badPhase hp⟩
  obtain ⟨t, ht, he⟩ := exec_effect (isWire_of_command hi) s
  rw [ht, he.eq_of_not_permitted hp, State.raise_eq_faulted]

/-! ### The fault group (10_state R36, 60_exceptions R227) -/

/-- FSR after an instruction is FSR before it, with bits added. -/
theorem CommandEffect.fsr_eq_or {i : Instr} {s t : State} (he : CommandEffect i s t) : ∃ b, t.fsr = s.fsr ||| b := by
  cases he with
  | badPhase | violation | decodeFault => exact ⟨_, rfl⟩
  | _ => exact ⟨0#3, by simp⟩

/-- Bits of FSR that are set stay set through every move but RESET. -/
theorem keptByMoves_fsrBits (b : BitVec 3) : KeptByMoves fun u => u.fsr &&& b = b where
  arrival _ hs := hs
  effect _ he hs := by
    obtain ⟨c, hc⟩ := he.fsr_eq_or
    exact hc ▸ or_keeps_bits c hs
  illegal _ hs := or_keeps_bits _ hs
  append _ hs := hs
  close hs := hs
  drain _ hs := hs

/-- A recorded cause stays through every instruction but NEW: the fault entry writes FCAUSE only when it is none. -/
theorem CommandEffect.keeps_fcause {i : Instr} {s t : State} {c : Cause} (he : CommandEffect i s t) (hi : i ≠ .new)
    (hc : s.fcause = some c) : t.fcause = some c := by
  cases he with
  | new => exact absurd rfl hi
  | badPhase | violation | decodeFault => simp [hc]
  | _ => exact hc

/-- Settles O16: FSR by the bits every move keeps, FCAUSE by the effects; a wire row changes the input stream only. -/
theorem faultBitsStayUntilResetAndTheCauseUntilNew : Obligations.FaultBitsStayUntilResetAndTheCauseUntilNew := by
  refine ⟨fun s t h hreset => ?_, fun i s t c hi h hc => ?_⟩
  · have hkept := (keptByMoves_fsrBits s.fsr).step (fun ⟨rest, hr⟩ => absurd hr (hreset rest)) BitVec.and_self h
    rwa [BitVec.and_comm]
  · cases hw : i.isWire with
    | false => exact (CommandEffect.of_exec hw h).keeps_fcause hi hc
    | true =>
      rw [exec_wire hw] at h
      obtain ⟨-, hd⟩ | ⟨-, hd⟩ := s.deliver_cases (wireBytes i) <;> cases hd.symm.trans h
      exact hc

/-! ### The access table (10_state R42) -/

/-- Settles O18: an effect changes the registers it writes out and no other, and its command is the one the table lists for
them; the three fault entries change PHASE, FSR and FCAUSE. -/
theorem commandsWriteOnlyTheRegistersOfTheAccessTable :
    Obligations.CommandsWriteOnlyTheRegistersOfTheAccessTable := by
  intro i s t hi h
  cases CommandEffect.of_exec (isWire_of_command hi) h with
  | flagsByte => exact absurd rfl hi
  | _ => simp [State.typeTag]

/-! ### The lifecycle (10_state R33) and the stale length (R35) -/

theorem step_reset {s : State} {rest : List Input} (h : s.inputs = .reset :: rest) :
    step s = .next (State.resetInput { s with inputs := rest }) := step_of_inputs h

/-- Settles O19: the phase each effect leaves. -/
theorem phaseMovesOnlyAlongTheLifecycle : Obligations.PhaseMovesOnlyAlongTheLifecycle := by
  refine ⟨by decide, fun s rest h => ⟨_, step_reset h, rfl⟩, fun i s t hi h => ?_⟩
  cases CommandEffect.of_exec (isWire_of_command hi) h with
  | badPhase | violation => rfl
  | read v hp hr => cases i <;> cases hr <;> rfl
  | encode hp | decodeDone hp => exact ⟨hp, rfl⟩
  | _ => rfl

/-- Settles O20: what each effect does to LENSTALE, and the check ENCODE passed. -/
theorem lengthGoesStaleOnMutationAndFreshOnCompute : Obligations.LengthGoesStaleOnMutationAndFreshOnCompute := by
  refine ⟨rfl, fun s rest h => ⟨_, step_reset h, rfl⟩, fun s t h hr => ?_, fun i s t hi h => ?_⟩
  · cases CommandEffect.of_exec rfl h with
    | badPhase | violation => simp at hr
    | read _ _ hread => cases hread
    | encode _ hl => exact hl
  · cases CommandEffect.of_exec (isWire_of_command hi) h with
    | flagsByte => exact absurd rfl hi
    | read v hp hr => cases i <;> cases hr <;> rfl
    | _ => rfl

/-! ### The reset table (10_state R43) and the flags byte (log 16) -/

/-- Settles O11: NEW writes the rows marked NEW and leaves FSR and the streams, which are then put at their reset values. -/
theorem resetStateHoldsTheValuesOfTheTable : Obligations.ResetStateHoldsTheValuesOfTheTable := by
  refine ⟨by simp [AsAfterReset, State.reset, State.typeTag], fun s => ⟨_, rfl, rfl, rfl, rfl, ?_⟩⟩
  simp [AsAfterReset, State.reset, State.typeTag]

/-- Settles O52: a byte is in the range of SETFLAGS, so only the phase check is left. -/
theorem flagsByteActsAsSetflags : Obligations.FlagsByteActsAsSetflags := by
  refine ⟨fun f s hp => ?_, fun f s hp => ?_⟩
  · rw [exec_flagsByte, State.ifFresh_of_fresh hp]
    rfl
  · rw [exec_flagsByte, State.ifFresh, if_neg hp, State.raise_eq_faulted]

end Sys2Proof.Machine
end

section
/-! What arrives at the port with a next state of its own: a delivery to an open stream, a Close of one, a Drain, and a
decoded instruction (20_memory R80, R85). -/
namespace Sys2Proof.Machine
open Sys2Proof.Claims

theorem State.deliver_of_open {s : State} (h : s.rd.closed = false) (c : List Byte) :
    s.deliver c = .next { s with rd := s.rd.append c } := by
  simp [State.deliver, h]

theorem step_appendChunk {s : State} {c : List Byte} {rest : List Input} (hin : s.inputs = .appendChunk c :: rest)
    (hc : c ≠ []) (ho : s.rd.closed = false) :
    step s = resume { s with inputs := rest, rd := { s.rd with buf := s.rd.buf ++ [c] } } := by
  obtain ⟨b, bs, rfl⟩ := List.exists_cons_of_ne_nil hc
  simp [step_of_inputs hin, accept, State.appendChunk, State.deliver, ho, andThen, Rd.append]

theorem step_close {s : State} {rest : List Input} (hin : s.inputs = .close :: rest) (ho : s.rd.closed = false) :
    step s = resume { s with inputs := rest, rd := { s.rd with closed := true } } := by
  simp [step_of_inputs hin, accept, State.close, ho, andThen, State.endInput]

theorem resume_of_held_none {s : State} (h : s.held = none) : resume s = .next s := by
  simp [resume, h]

/-- Settles O6: each move by what it does to its stream; with no command pending nothing is evaluated after it. -/
theorem environmentMovesChangeOnlyTheStreams : Obligations.EnvironmentMovesChangeOnlyTheStreams := by
  refine ⟨fun s => step_idle, fun s c rest hin hc hh ho => ?_, fun s rest hin hh ho => ?_, fun s k rest hin => ?_⟩
  · exact (step_appendChunk hin hc ho).trans (resume_of_held_none hh)
  · exact (step_close hin ho).trans (resume_of_held_none hh)
  · exact ⟨drainSegs k s.wr.segs, step_of_inputs hin, content_drainSegs k s.wr.segs⟩

/-- Settles O4: the step takes the arrival to `issue`, which runs the host's instruction when none is pending, and delivers
the bytes of a wire row and then resumes. -/
theorem stepRunsTheDecodedInstruction : Obligations.StepRunsTheDecodedInstruction := by
  intro s r rest i hin hd
  have hstep : step s = issue r { s with inputs := rest } := step_of_inputs hin
  refine ⟨fun hw hh => ?_, fun hw hc => ?_, fun hw ho => ?_⟩
  · simp [hstep, issue, hd, hw, hh]
  · simp [hstep, issue_wire hd hw, State.deliver, hc, andThen]
  · have hdel := State.deliver_of_open (s := { s with inputs := rest }) ho (wireBytes i)
    exact ⟨_, (exec_wire hw _).trans hdel, by rw [hstep, issue_wire hd hw, hdel]; rfl⟩

end Sys2Proof.Machine
end

section
/-! The streams under the commands: the output only grows at its end (20_memory R62, 10_state R38), the input is only
consumed from its front (20_memory R61, R64, 10_state R37). -/
namespace Sys2Proof.Machine
open Sys2Proof.Claims

/-! ### The Byte Writer appends (20_memory R69 to R74) -/

/-- `wr'` is `wr` with segments appended, and the bytes of these are counted (10_state R38). -/
structure Wr.Extends (wr wr' : Wr) : Prop where
  segs : wr.segs <+: wr'.segs
  pos : wr'.pos + wr.content.length = wr.pos + wr'.content.length

theorem Wr.Extends.refl (wr : Wr) : wr.Extends wr := ⟨⟨[], List.append_nil _⟩, rfl⟩

theorem Wr.Extends.trans {a b c : Wr} (h1 : a.Extends b) (h2 : b.Extends c) : a.Extends c where
  segs := h1.segs.trans h2.segs
  pos := by have := h1.pos; have := h2.pos; omega

theorem Wr.extends_memWrite (wr : Wr) (v : List Byte) : wr.Extends (wr.memWrite v) where
  segs := by cases v <;> simp [Wr.memWrite]
  pos := by simp; omega

theorem Wr.extends_putSlices (wr : Wr) (blocks : List Slice) : wr.Extends (wr.putSlices blocks) where
  segs := by simp [Wr.segs_putSlices]
  pos := by simp [size]; omega

theorem Wr.extends_putPriority (wr : Wr) (mode : PackMode) (p : Option Prio) : wr.Extends (wr.putPriority mode p) := by
  cases p with
  | none => exact .refl wr
  | some p => exact (wr.extends_memWrite (beBytes (pack mode p.excl p.sdep))).trans (Wr.extends_memWrite _ [p.weight])

theorem Wr.Extends.ite {wr a : Wr} {c : Bool} (h : wr.Extends a) : wr.Extends (if c then a else wr) := by
  cases c with
  | true => exact h
  | false => exact .refl wr

/-- Lines 5 to 8 of ENCODE: the Pad Length, the priority block, the slices, the padding, each appended (42_encode R160). -/
theorem State.extends_emitPayload (s : State) (wr : Wr) : wr.Extends (s.emitPayload wr) :=
  have h5 := (wr.extends_memWrite [s.pad]).ite
  have h6 := (Wr.extends_putPriority _ s.packMode s.prio).ite
  have h7 := Wr.extends_putSlices _ (s.hblk.getD [])
  have h8 := (Wr.extends_memWrite _ (List.replicate s.pad.toNat 0x00#8)).ite
  ((h5.trans h6).trans h7).trans h8

/-- Settles O54: ENCODE is the one instruction that writes OUT, and it appends; a wire row is delivered on IN. -/
theorem commandsOnlyAppendToTheOutput : Obligations.CommandsOnlyAppendToTheOutput := by
  intro i s t h
  suffices he : s.wr.Extends t.wr from ⟨he.segs, he.pos⟩
  cases hw : i.isWire with
  | false =>
    cases CommandEffect.of_exec hw h with
    | encode => exact (s.wr.extends_memWrite _).trans (s.extends_emitPayload _)
    | _ => exact .refl _
  | true =>
    rw [exec_wire hw] at h
    obtain ⟨-, hd⟩ | ⟨-, hd⟩ := s.deliver_cases (wireBytes i) <;> cases hd.symm.trans h
    exact .refl _

/-- Settles O55: DECODE is the one command that reads IN, and what it leaves is what its primitives left. -/
theorem commandsOnlyConsumeFromTheFrontOfTheInput : Obligations.CommandsOnlyConsumeFromTheFrontOfTheInput := by
  intro i s t hi h
  cases CommandEffect.of_exec (isWire_of_command hi) h with
  | decodeFault _ hh =>
    obtain ⟨-, n, hn⟩ := parsePayload_fault_consumed hh
    exact ⟨n, hn.enough, hn.pos, hn.avail, hn.closed⟩
  | decodeDone _ _ hh =>
    obtain ⟨n, hn⟩ := parsePayload_done_consumed hh
    exact ⟨n, hn.enough, hn.pos, hn.avail, hn.closed⟩
  | _ => exact ⟨0, Nat.zero_le _, rfl, rfl, rfl⟩

end Sys2Proof.Machine
end

section
/-! Integers on the streams, byte by byte (20_memory R65, R66, R70, R72, R86). -/
namespace Sys2Proof.Machine
open Sys2Proof.Claims

/-- The bytes of a word, as the statements write them with numbers (20_memory R72). -/
theorem beBytes_eq_wordBytes (w : Word) : beBytes w = wordBytes w.toNat := by
  simp [beBytes, wordBytes, BitVec.extractLsb', Nat.shiftRight_eq_div_pow]

theorem toNat_beWord (b0 b1 b2 b3 : Byte) :
    (beWord b0 b1 b2 b3).toNat = 2 ^ 24 * b0.toNat + 2 ^ 16 * b1.toNat + 2 ^ 8 * b2.toNat + b3.toNat := by
  simp only [beWord, BitVec.toNat_append]
  rw [← Nat.shiftLeft_add_eq_or_of_lt b1.isLt, ← Nat.shiftLeft_add_eq_or_of_lt b2.isLt,
    ← Nat.shiftLeft_add_eq_or_of_lt b3.isLt]
  simp only [Nat.shiftLeft_eq]
  omega

@[simp] theorem beBytes_beWord (b0 b1 b2 b3 : Byte) : beBytes (beWord b0 b1 b2 b3) = [b0, b1, b2, b3] := by
  have h0 := b0.isLt; have h1 := b1.isLt; have h2 := b2.isLt; have h3 := b3.isLt
  simp only [beBytes_eq_wordBytes, wordBytes, toNat_beWord, List.cons.injEq, and_true]
  refine ⟨?_, ?_, ?_, ?_⟩ <;> apply BitVec.eq_of_toNat_eq <;> rw [BitVec.toNat_ofNat] <;> omega

theorem beWord_bytes (w : Word) :
    beWord (w.extractLsb' 24 8) (w.extractLsb' 16 8) (w.extractLsb' 8 8) (w.extractLsb' 0 8) = w := by
  apply BitVec.eq_of_toNat_eq
  have := w.isLt
  simp only [toNat_beWord, BitVec.extractLsb'_toNat, Nat.shiftRight_eq_div_pow]
  omega

theorem Rd.rdU32BE_of_avail {rd : Rd} {b0 b1 b2 b3 : Byte} {rest : List Byte}
    (h : rd.avail = b0 :: b1 :: b2 :: b3 :: rest) :
    ∃ rd', rd.rdU32BE = .done (beWord b0 b1 b2 b3) rd' ∧ rd'.avail = rest ∧ rd'.pos = rd.pos + 4 := by
  obtain ⟨rd', hm⟩ := Rd.memRead_of_le (rd := rd) (n := 4) (by simp [h])
  obtain ⟨-, -, ha, hp, -⟩ := Rd.memRead_done hm
  exact ⟨rd', by simp [Rd.rdU32BE, hm, h], by simp [ha, h], hp⟩

theorem Rd.rdU8_of_avail {rd : Rd} {v : Byte} {rest : List Byte} (h : rd.avail = v :: rest) :
    ∃ rd', rd.rdU8 = .done v rd' ∧ rd'.avail = rest ∧ rd'.pos = rd.pos + 1 := by
  obtain ⟨rd', hm⟩ := Rd.memRead_of_le (rd := rd) (n := 1) (by simp [h])
  obtain ⟨-, -, ha, hp, -⟩ := Rd.memRead_done hm
  exact ⟨rd', by simp [Rd.rdU8, hm, h], by simp [ha, h], hp⟩

/-- Settles O48: the four bytes of a word and the word of four bytes are inverse to each other, and the primitives write and
read exactly those bytes, whatever the chunks. -/
theorem integerCodecRoundTrips : Obligations.IntegerCodecRoundTrips := by
  refine ⟨fun v wr => ?_, fun v rd rest h => ?_, fun b0 b1 b2 b3 rd rest h => ?_, fun v wr rd rest => ⟨?_, fun h => ?_⟩⟩
  · rw [Wr.content_putU32BE, beBytes_eq_wordBytes]
  · rw [← beBytes_eq_wordBytes] at h
    rw [← beWord_bytes v]
    exact Rd.rdU32BE_of_avail h
  · obtain ⟨rd', hr, -⟩ := Rd.rdU32BE_of_avail h
    exact ⟨_, rd', hr, toNat_beWord b0 b1 b2 b3, by rw [← beBytes_eq_wordBytes, beBytes_beWord]⟩
  · exact Wr.content_putU8 wr v
  · exact Rd.rdU8_of_avail h

end Sys2Proof.Machine
end

section
/-! Chunk boundaries carry no meaning (20_memory R61): on two streams with the same bytes every primitive, every part of
DECODE and DECODE itself end in the same way, and leave the same bytes. -/
namespace Sys2Proof.Machine
open Sys2Proof.Claims

/-- The two streams are equal but for the boundaries of their chunks. -/
structure Rd.SameBytes (a b : Rd) : Prop where
  avail : a.avail = b.avail
  closed : a.closed = b.closed
  poisoned : a.poisoned = b.poisoned
  pos : a.pos = b.pos

/-- Two reads end in the same way, with the same value, and leave the same bytes. -/
inductive ReadResult.SameBytes {α : Type} : ReadResult α → ReadResult α → Prop
  | done (x : α) {a b : Rd} (h : a.SameBytes b) : SameBytes (.done x a) (.done x b)
  | short : SameBytes .short .short
  | hold : SameBytes .hold .hold

/-- Two parts of DECODE end in the same way, with the same value or fault, and leave the same bytes. -/
inductive Parse.SameBytes {α : Type} : Parse α → Parse α → Prop
  | done (x : α) {a b : Rd} (h : a.SameBytes b) : SameBytes (.done x a) (.done x b)
  | fault (c : Cause) {a b : Rd} (h : a.SameBytes b) : SameBytes (.fault c a) (.fault c b)
  | hold : SameBytes .hold .hold

/-! ### The primitives (20_memory R64 to R68) -/

theorem Rd.SameBytes.memRead {a b : Rd} (h : a.SameBytes b) (n : Nat) : (a.memRead n).SameBytes (b.memRead n) := by
  have hdrop : (dropChunks n a.buf).flatten = (dropChunks n b.buf).flatten := by
    rw [flatten_dropChunks, flatten_dropChunks]
    exact congrArg (List.drop n) h.avail
  unfold Rd.memRead
  rw [← h.avail, ← h.closed]
  split
  · exact .done _ h
  · split
    · exact .done _ ⟨hdrop, rfl, h.poisoned, congrArg (· + n) h.pos⟩
    · split
      · exact .short
      · exact .hold

/-- A read with its value converted: every primitive is a `MemRead` of this form. -/
def ReadResult.map {α β : Type} (f : α → β) : ReadResult α → ReadResult β
  | .done x rd => .done (f x) rd
  | .short => .short
  | .hold => .hold

theorem ReadResult.SameBytes.map {α β : Type} {p q : ReadResult α} (f : α → β) (h : p.SameBytes q) :
    (p.map f).SameBytes (q.map f) := by
  cases h with
  | done x h1 => exact .done (f x) h1
  | short => exact .short
  | hold => exact .hold

theorem Rd.rdU8_eq_map (rd : Rd) : rd.rdU8 = (rd.memRead 1).map fun b => b.headD 0#8 := by
  unfold Rd.rdU8; cases rd.memRead 1 <;> rfl

theorem Rd.rdU32BE_eq_map (rd : Rd) :
    rd.rdU32BE = (rd.memRead 4).map fun b => beWord (b.getD 0 0#8) (b.getD 1 0#8) (b.getD 2 0#8) (b.getD 3 0#8) := by
  unfold Rd.rdU32BE; cases rd.memRead 4 <;> rfl

theorem Rd.rdSlices_eq_map (rd : Rd) (sizes : List Nat) (n : Nat) :
    rd.rdSlices sizes n = (rd.memRead n).map fun b => if n = 0 then [] else cut sizes b := by
  unfold Rd.rdSlices; cases rd.memRead n <;> rfl

theorem Rd.rdSkip_eq_map (rd : Rd) (n : Nat) : rd.rdSkip n = (rd.memRead n).map fun _ => () := by
  unfold Rd.rdSkip; cases rd.memRead n <;> rfl

/-! ### The parts of DECODE (40_decode R140) -/

theorem Parse.SameBytes.ofRead {α : Type} {a b : Rd} {sub : TruncatedSub} {p q : ReadResult α} (h : a.SameBytes b)
    (hr : p.SameBytes q) : (Parse.ofRead a sub p).SameBytes (Parse.ofRead b sub q) := by
  cases hr with
  | done x h1 => exact .done x h1
  | short => exact .fault _ h
  | hold => exact .hold

theorem Parse.SameBytes.andThen {α β : Type} {p q : Parse α} {k : α → Rd → Parse β} (h : p.SameBytes q)
    (hk : ∀ x {a b : Rd}, a.SameBytes b → (k x a).SameBytes (k x b)) : (p.andThen k).SameBytes (q.andThen k) := by
  cases h with
  | done x h1 => exact hk x h1
  | fault c h1 => exact .fault c h1
  | hold => exact .hold

theorem Rd.SameBytes.parsePadLength {a b : Rd} (h : a.SameBytes b) (padded : Bool) (rem : Nat) :
    (parsePadLength padded rem a).SameBytes (parsePadLength padded rem b) := by
  simp only [Machine.parsePadLength, Rd.rdU8_eq_map]
  split
  · split
    · exact .fault _ h
    · exact (Parse.SameBytes.ofRead h ((h.memRead 1).map _)).andThen fun _ => .done _
  · exact .done _ h

theorem Rd.SameBytes.parsePriority {a b : Rd} (h : a.SameBytes b) (priority : Bool) (rem : Nat) :
    (parsePriority priority rem a).SameBytes (parsePriority priority rem b) := by
  simp only [Machine.parsePriority, Rd.rdU32BE_eq_map, Rd.rdU8_eq_map]
  split
  · split
    · exact .fault _ h
    · exact (Parse.SameBytes.ofRead h ((h.memRead 4).map _)).andThen fun _ _ _ h1 =>
        (Parse.SameBytes.ofRead h1 ((h1.memRead 1).map _)).andThen fun _ => .done _
  · exact .done _ h

theorem Rd.SameBytes.parseBlocks {a b : Rd} (h : a.SameBytes b) (sizes : List Nat) (p : Byte) (rem : Nat) :
    (parseBlocks sizes p rem a).SameBytes (parseBlocks sizes p rem b) := by
  simp only [Machine.parseBlocks, Rd.rdSlices_eq_map, Rd.rdSkip_eq_map]
  split
  · exact .fault _ h
  · exact (Parse.SameBytes.ofRead h ((h.memRead _).map _)).andThen fun _ _ _ h1 =>
      (Parse.SameBytes.ofRead h1 ((h1.memRead _).map _)).andThen fun _ => .done _

theorem Rd.SameBytes.parsePayload {a b : Rd} (h : a.SameBytes b) (sizes : List Nat) (f : Byte) (L : Nat) :
    (parsePayload sizes f L a).SameBytes (parsePayload sizes f L b) :=
  (h.parsePadLength _ L).andThen fun pr _ _ h1 => (h1.parsePriority _ pr.2).andThen fun qr _ _ h2 =>
    (h2.parseBlocks sizes pr.1 qr.2).andThen fun _ => .done _

/-! ### DECODE on the machine (40_decode R140, R145) -/

/-- The second state is the first with other boundaries of the chunks in its input stream. -/
inductive State.SameBytes : State → State → Prop
  | intro (s : State) {rd : Rd} (h : s.rd.SameBytes rd) : SameBytes s { s with rd := rd }

/-- The fault entry does not touch the stream. -/
theorem State.SameBytes.raise {s t : State} (h : s.SameBytes t) (c : Cause) : (s.raise c).SameBytes (t.raise c) := by
  cases h with
  | intro hrd => exact .intro (s.raise c) hrd

theorem State.SameBytes.decodeBody {s t : State} (h : s.SameBytes t) (f l i : Word) :
    (decodeBody f l i s).SameBytes (decodeBody f l i t) := by
  cases h with
  | @intro rd hrd =>
    have hp := hrd.parsePayload (Config.sliceSizes s.draws) (low8 f) (low24 l).toNat
    unfold Machine.decodeBody
    generalize Machine.parsePayload _ _ _ s.rd = p, Machine.parsePayload _ _ _ rd = q at hp ⊢
    cases hp with
    | done x h1 => exact .intro _ h1
    | fault c h1 => exact .intro (s.streamFault _ c) ⟨h1.avail, h1.closed, rfl, h1.pos⟩
    | hold => exact .intro _ hrd

/-- DECODE passes the same checks, then parses (40_decode R140). -/
theorem State.SameBytes.execDecode {s t : State} (h : s.SameBytes t) (f l i : Word) :
    ∃ s' t', execDecode f l i s = .next s' ∧ execDecode f l i t = .next t' ∧ s'.SameBytes t' := by
  have hraise := h.raise
  have hbody := h.decodeBody f l i
  refine ⟨_, _, rfl, rfl, ?_⟩
  cases h with
  | @intro rd hrd =>
    simp only [State.ifFresh, ← hrd.poisoned]
    split
    · split
      · exact hraise _
      · split
        · exact hbody
        · exact hraise _
    · exact hraise _

/-- Settles O46: the two chunkings are two states with the same bytes, and so DECODE ends with the same bytes; the cut of
the header block is one and the same, as both take the same draw. -/
theorem chunkBoundariesCarryNoMeaning : Obligations.ChunkBoundariesCarryNoMeaning := by
  intro s f l i buf1 buf2 hbuf
  have hsame : State.SameBytes { s with rd := { s.rd with buf := buf1 } } { s with rd := { s.rd with buf := buf2 } } :=
    .intro { s with rd := { s.rd with buf := buf1 } } ⟨hbuf, rfl, rfl, rfl⟩
  obtain ⟨t, u, ht, hu, hend⟩ := hsame.execDecode f l i
  refine ⟨t, u, ht, hu, ?_⟩
  cases hend with
  | @intro rd h => exact ⟨h.avail.symm, rfl, by simp [h.closed, h.poisoned, h.pos]⟩

end Sys2Proof.Machine
end

section
/-! The priority word (30_encoding R108 to R111): Unpack and the two modes of Pack as numbers. -/
namespace Sys2Proof.Machine
open Sys2Proof.Claims

/-! ### Unpack (30_encoding R109) -/

theorem unpack_fst (w : Word) : (unpack w).1 = decide (2 ^ 31 ≤ w.toNat) :=
  (BitVec.msb_eq_getLsbD_last w).symm.trans (BitVec.msb_eq_decide w)

@[simp] theorem toNat_unpack_snd (w : Word) : (unpack w).2.toNat = w.toNat % 2 ^ 31 := by simp [unpack]

/-- The word that is bit and dependency as a number unpacks to them. -/
theorem unpack_of_toNat {w : Word} {e : Bool} {d : Sdep} (h : w.toNat = (if e then 2 ^ 31 else 0) + d.toNat) :
    unpack w = (e, d) := by
  have hd := d.isLt
  refine Prod.ext ?_ (BitVec.eq_of_toNat_eq ?_)
  · rw [unpack_fst, h]
    cases e <;> simp [hd]
  · rw [toNat_unpack_snd, h]
    cases e <;> simp <;> omega

/-! ### Pack in mode OR (30_encoding R110) -/

theorem toNat_packOr (e : Bool) (d : Sdep) : (packOr e d).toNat = (if e then 2 ^ 31 else 0) + d.toNat := by
  have hmod : d.toNat % 4294967296 = d.toNat := Nat.mod_eq_of_lt (d.isLt.trans (by decide))
  cases e with
  | false => simpa [packOr] using hmod
  | true =>
    have hor : 2147483648 ||| d.toNat = 2147483648 + d.toNat := (Nat.two_pow_add_eq_or_of_lt (i := 31) d.isLt 1).symm
    simp [packOr, hmod, hor]

@[simp] theorem unpack_packOr (e : Bool) (d : Sdep) : unpack (packOr e d) = (e, d) := unpack_of_toNat (toNat_packOr e d)

theorem toNat_packOr_eq_packNat (e : Bool) (d : Sdep) : (packOr e d).toNat = packNat .or e d.toNat := by
  rw [toNat_packOr]
  cases e <;> simp [packNat]

/-- Settles O49: Unpack by its two numbers, Pack by its number, and the number of Pack is what Unpack takes apart. -/
theorem unpackUndoesPackInModeOr : Obligations.UnpackUndoesPackInModeOr :=
  ⟨fun w => ⟨unpack_fst w, toNat_unpack_snd w⟩, toNat_packOr, unpack_packOr⟩

/-! ### Pack in mode SHIFT_COMPAT (30_encoding R111) -/

theorem toNat_pack_shiftCompat_true (d : Sdep) : (pack .shiftCompat true d).toNat = 2 ^ ((31 + d.toNat) % 32) := by
  have hlt : 2 ^ ((31 + d.toNat) % 32) < 2 ^ 32 := Nat.pow_lt_pow_right (by decide) (Nat.mod_lt _ (by decide))
  simpa [pack, Nat.shiftLeft_eq] using hlt

/-- Settles O50: the one bit set is bit 31 when 32 divides the dependency and bit `k - 1` of the dependency otherwise. -/
theorem shiftCompatPackSetsOneBit : Obligations.ShiftCompatPackSetsOneBit := by
  refine ⟨fun d => ?_, toNat_pack_shiftCompat_true, fun d hd => unpack_of_toNat ?_, fun d k hk h1 => unpack_of_toNat ?_⟩
  · exact (BitVec.toNat_setWidth 32 d).trans (Nat.mod_eq_of_lt (d.isLt.trans (by decide)))
  · have hbit : (31 + d.toNat) % 32 = 31 := by omega
    simp [toNat_pack_shiftCompat_true, hbit]
  · have hbit : (31 + d.toNat) % 32 = k - 1 := by omega
    have hlt : 2 ^ (k - 1) < 2 ^ 31 := Nat.pow_lt_pow_right (by decide) (by omega)
    rw [toNat_pack_shiftCompat_true, hbit, BitVec.toNat_ofNat, Nat.mod_eq_of_lt hlt]
    exact (Nat.zero_add _).symm

end Sys2Proof.Machine
end

section
/-! Command words (30_encoding R120 to R122): the word as a number is the word of its fields, the opcode map is the table of
the statements, and an opcode outside it faults at the step. -/
namespace Sys2Proof.Machine
open Sys2Proof.Claims

/-! ### Reading a command word -/

/-- The word of 30_encoding R120 as a number is the model's concatenation of its fields. -/
theorem word_eq_cmdWord (op : Nat) (a0 a1 a2 : Word) : word op a0 a1 a2 = cmdWord (BitVec.ofNat 8 op) a0 a1 a2 := by
  apply BitVec.eq_of_toNat_eq
  have h0 := a0.isLt; have h1 := a1.isLt; have h2 := a2.isLt
  simp only [word, cmdWord, BitVec.toNat_append, BitVec.toNat_ofNat]
  rw [← Nat.shiftLeft_add_eq_or_of_lt h0, ← Nat.shiftLeft_add_eq_or_of_lt h1, ← Nat.shiftLeft_add_eq_or_of_lt h2]
  simp only [Nat.shiftLeft_eq]
  omega

/-- Looking an opcode up in the map tries the rows in order. -/
theorem find?_opcode_cons {β : Type} {n op : Nat} (hn : n < 256) (hop : op < 256)
    (build : Word → Word → Word → List Slice → Instr) (rows : List OpRow) (g : OpRow → β) :
    (((⟨BitVec.ofNat 8 n, build⟩ : OpRow) :: rows).find? fun r => r.op == BitVec.ofNat 8 op).map g =
      if op = n then some (g ⟨BitVec.ofNat 8 n, build⟩)
      else (rows.find? fun r => r.op == BitVec.ofNat 8 op).map g := by
  have hiff : BitVec.ofNat 8 n = BitVec.ofNat 8 op ↔ op = n := by
    rw [← BitVec.toNat_inj, BitVec.toNat_ofNat, BitVec.toNat_ofNat]
    omega
  by_cases h : op = n
  · simp [h]
  · rw [if_neg h, List.find?_cons_of_neg (by simpa [hiff] using h)]

/-- The opcode map of the decoder is the table of the statements (30_encoding R121). -/
theorem opcodeRow_eq_find? {op : Nat} (hop : op < 256) (a0 a1 a2 : Word) (blk : List Slice) :
    opcodeRow op a0 a1 a2 blk =
      (opcodeMap.find? fun r => r.op == BitVec.ofNat 8 op).map fun r => r.build a0 a1 a2 blk := by
  simp [opcodeMap, find?_opcode_cons, hop, opcodeRow, -List.find?_singleton]

/-- A command word is read by the row of its opcode, with the fields it was made of; without a row it is rejected. -/
theorem decode_cmdWord (op : Byte) (a0 a1 a2 : Word) (blk : List Slice) :
    decode (.command (cmdWord op a0 a1 a2) blk) =
      (opcodeMap.find? fun r => r.op == op).elim (.error (.illegalCmd op)) fun r => .ok (r.build a0 a1 a2 blk) := by
  simp only [decode, decodeCommand, opField_cmdWord, a0Field_cmdWord, a1Field_cmdWord, a2Field_cmdWord]
  cases opcodeMap.find? fun r => r.op == op <;> rfl

/-- Settles O3: the word is the concatenation of its fields, which the decoder reads back, and its opcode map is the table. -/
theorem everyCommandWordReadsAsTheOpcodeMapSays : Obligations.EveryCommandWordReadsAsTheOpcodeMapSays := by
  intro op a0 a1 a2 blk hop
  rw [word_eq_cmdWord, decode_cmdWord, opcodeRow_eq_find? hop]
  cases opcodeMap.find? fun r => r.op == BitVec.ofNat 8 op <;> rfl

/-- Settles O1: each word is evaluated by the decoder. -/
theorem wordsWrittenOutFromTheSpecDecode : Obligations.WordsWrittenOutFromTheSpecDecode := by
  refine ⟨?_, ?_, ?_, ?_, ?_, ?_, ?_, ?_, ?_, ?_, ?_, ?_, ?_, ?_⟩ <;> rfl

/-! ### Illegal opcodes (30_encoding R122) -/

theorem opcodeRow_of_illegal {op : Nat} (h : 0x06 ≤ op ∧ op ≤ 0x0F ∨ 0x1D ≤ op ∧ op ≤ 0x1F ∨ 0x23 ≤ op ∧ op ≤ 0xFF)
    (a0 a1 a2 : Word) (blk : List Slice) : opcodeRow op a0 a1 a2 blk = none := by
  simp (disch := omega) only [opcodeRow, if_neg]

/-- Settles O5: the table has no row for the opcode, so the decoder rejects the word and the port raises ILLEGAL_CMD without a
look at the phase. -/
theorem illegalOpcodeRaisesIllegalCmdInEveryPhase : Obligations.IllegalOpcodeRaisesIllegalCmdInEveryPhase := by
  intro s op a0 a1 a2 blk rest hop hh hin
  have hd : decode (.command (word op a0 a1 a2) blk) = .error (.illegalCmd (BitVec.ofNat 8 op)) := by
    rw [everyCommandWordReadsAsTheOpcodeMapSays op a0 a1 a2 blk (by omega), opcodeRow_of_illegal hop]
  rw [step_of_inputs hin]
  simp [accept, issue, hd, hh, State.raise_eq_faulted]

end Sys2Proof.Machine
end

section
/-! The wire rows (30_encoding R100 to R108): the optional fields of the layout each row is in, the bytes of a row as the
statements spell them out, and that the decoder reads every row back from its encoding. -/
namespace Sys2Proof.Machine
open Sys2Proof.Claims

/-! ### When a row is well formed -/

theorem wellFormed_headersN_iff {flags : Byte} {fragment : List Byte} :
    WellFormed (.headersN flags fragment) ↔ flags &&& layoutMask = 0x00#8 ∧ fragment.length ≤ lenMax := by
  simp [WellFormed, Instr.wellFormed]

theorem wellFormed_headersP_iff {flags pad : Byte} {fragment padding : List Byte} :
    WellFormed (.headersP flags pad fragment padding) ↔
      flags &&& layoutMask = 0x08#8 ∧ padding.length = pad.toNat ∧ 1 + fragment.length + padding.length ≤ lenMax := by
  simp [WellFormed, Instr.wellFormed, and_assoc]

theorem wellFormed_headersQ_iff {flags : Byte} {e : Bool} {d : Sdep} {g : Byte} {fragment : List Byte} :
    WellFormed (.headersQ flags e d g fragment) ↔ flags &&& layoutMask = 0x20#8 ∧ 5 + fragment.length ≤ lenMax := by
  simp [WellFormed, Instr.wellFormed]

theorem wellFormed_headersPQ_iff {flags pad : Byte} {e : Bool} {d : Sdep} {g : Byte} {fragment padding : List Byte} :
    WellFormed (.headersPQ flags pad e d g fragment padding) ↔
      flags &&& layoutMask = 0x28#8 ∧ padding.length = pad.toNat ∧ 6 + fragment.length + padding.length ≤ lenMax := by
  simp [WellFormed, Instr.wellFormed, and_assoc]

/-- A payload that stands for its row is no longer than a 24-bit `LEN` can declare. -/
theorem length_wireBytes_le_lenMax {i : Instr} (h : WellFormed i) : (wireBytes i).length ≤ lenMax := by
  cases i with
  | headersN => exact (wellFormed_headersN_iff.1 h).2
  | headersP =>
    obtain ⟨-, -, hl⟩ := wellFormed_headersP_iff.1 h
    simp only [wireBytes, List.length_cons, List.length_append]
    omega
  | headersQ =>
    obtain ⟨-, hl⟩ := wellFormed_headersQ_iff.1 h
    simp only [wireBytes, List.length_cons, List.length_append, length_beBytes]
    omega
  | headersPQ =>
    obtain ⟨-, -, hl⟩ := wellFormed_headersPQ_iff.1 h
    simp only [wireBytes, List.length_cons, List.length_append, length_beBytes]
    omega
  | priorityWord e d => exact (length_beBytes (packOr e d)).trans_le (by decide)
  | _ => exact Nat.zero_le _

/-! ### The layout a flags byte selects (30_encoding R101) -/

theorem padded_iff_of_layout {f m : Byte} (h : f &&& layoutMask = m) : Padded f ↔ m &&& 0x08#8 ≠ 0#8 := by
  rw [← h, BitVec.and_assoc]
  rfl

theorem priority_iff_of_layout {f m : Byte} (h : f &&& layoutMask = m) : Priority f ↔ m &&& 0x20#8 ≠ 0#8 := by
  rw [← h, BitVec.and_assoc]
  rfl

theorem beBytes_packOr (e : Bool) (d : Sdep) : beBytes (packOr e d) = wordBytes (packNat .or e d.toNat) := by
  rw [beBytes_eq_wordBytes, toNat_packOr_eq_packNat]

/-- The bytes the model delivers for a row are those of its layout, field by field (30_encoding R100 to R108). -/
theorem wireImage_eq_wireBytes {i : Instr} (h : WellFormed i) : wireImage i = wireBytes i := by
  cases i with
  | headersN =>
    obtain ⟨hf, -⟩ := wellFormed_headersN_iff.1 h
    simp [wireImage, wireBytes, payload, padded_iff_of_layout hf, priority_iff_of_layout hf]
  | headersP =>
    obtain ⟨hf, -⟩ := wellFormed_headersP_iff.1 h
    simp [wireImage, wireBytes, payload, padded_iff_of_layout hf, priority_iff_of_layout hf]
  | headersQ =>
    obtain ⟨hf, -⟩ := wellFormed_headersQ_iff.1 h
    simp [wireImage, wireBytes, payload, padded_iff_of_layout hf, priority_iff_of_layout hf, beBytes_packOr]
  | headersPQ =>
    obtain ⟨hf, -⟩ := wellFormed_headersPQ_iff.1 h
    simp [wireImage, wireBytes, payload, padded_iff_of_layout hf, priority_iff_of_layout hf, beBytes_packOr]
  | priorityWord e d => exact (beBytes_packOr e d).symm
  | _ => rfl

/-- Settles O51: a wire row delivers its bytes, which are those of its layout; a delivery appends them to an open stream as
one chunk, none for no bytes, and is refused on a closed one. -/
theorem wireRowsDeliverTheBytesOfTheirLayout : Obligations.WireRowsDeliverTheBytesOfTheirLayout := by
  intro i s hi hw
  rw [exec_wire hi, ← wireImage_eq_wireBytes hw]
  refine ⟨fun ho hne => ?_, fun ho he => ?_, fun hc => ?_⟩
  · obtain ⟨b, bs, hb⟩ := List.exists_cons_of_ne_nil hne
    rw [State.deliver_of_open ho, hb]
    rfl
  · rw [State.deliver_of_open ho, he]
    rfl
  · simp [State.deliver, hc]

/-! ### Decode of encode -/

theorem splitPadding_append {pad : Byte} {fragment padding : List Byte} (h : padding.length = pad.toNat) :
    splitPadding pad (fragment ++ padding) = (fragment, padding) := by
  simp [splitPadding, ← h]

/-- The decoder reads the priority word back from its four bytes (30_encoding R109, R110, 20_memory R66, R72). -/
theorem unpack_beWord_packOr (e : Bool) (d : Sdep) :
    unpack (beWord ((packOr e d).extractLsb' 24 8) ((packOr e d).extractLsb' 16 8) ((packOr e d).extractLsb' 8 8)
      ((packOr e d).extractLsb' 0 8)) = (e, d) := by
  rw [beWord_bytes, unpack_packOr]

/-- A payload row is read back from its bytes under its flags byte (30_encoding R101 to R106). -/
theorem decodePayload_wireBytes {i : Instr} {flags pad : Byte} {prio : Option Prio} {fragment : List Byte}
    (hw : WellFormed i) (hi : payloadFields i = some (flags, pad, prio, fragment)) :
    decodePayload flags (wireBytes i) = .ok i := by
  unfold decodePayload
  rw [if_neg (Nat.not_lt_of_le (length_wireBytes_le_lenMax hw))]
  cases i with
  | headersN =>
    cases hi
    obtain ⟨hf, -⟩ := wellFormed_headersN_iff.1 hw
    simp [hf, wireBytes]
  | headersP =>
    cases hi
    obtain ⟨hf, hp, -⟩ := wellFormed_headersP_iff.1 hw
    simp [hf, wireBytes, splitPadding_append hp, ← hp]
  | headersQ =>
    cases hi
    obtain ⟨hf, -⟩ := wellFormed_headersQ_iff.1 hw
    simp [hf, wireBytes, beBytes, unpack_beWord_packOr]
  | headersPQ =>
    cases hi
    obtain ⟨hf, hp, -⟩ := wellFormed_headersPQ_iff.1 hw
    simp [hf, wireBytes, beBytes, unpack_beWord_packOr, splitPadding_append hp, ← hp]
  | _ => cases hi

/-- Settles O2: a command by its row of the opcode map, a payload row by its layout, the priority word by its two fields. -/
theorem decodingAnEncodedInstructionGivesItBack : Obligations.DecodingAnEncodedInstructionGivesItBack := by
  intro i hw
  cases i with
  | headersN | headersP | headersQ | headersPQ => exact decodePayload_wireBytes hw rfl
  | priorityWord e d => simp [encode, decode]
  | flagsByte f => rfl
  | _ => exact decode_cmdWord _ _ _ _ _

end Sys2Proof.Machine
end

section
/-! A payload in the layout of its flags, read back by DECODE (40_decode R140, R142): each part of lines 4 to 10 on a stream
that begins with its bytes, and a payload row delivered and then decoded. -/
namespace Sys2Proof.Machine
open Sys2Proof.Claims

/-! ### The flag predicates as masks (43_flag_queries R172, R173) -/

theorem getLsbD_eq_decide_and_twoPow (f : Byte) {k : Nat} (hk : k < 8) :
    f.getLsbD k = decide (f &&& BitVec.twoPow 8 k ≠ 0#8) := by
  have hne : BitVec.twoPow 8 k ≠ 0#8 := fun h => by simpa [hk] using congrArg (·.getLsbD k) h
  rw [BitVec.and_twoPow]
  cases f.getLsbD k <;> simp [hne]

theorem flagPadded_eq_decide (f : Byte) : flagPadded f = decide (Padded f) := getLsbD_eq_decide_and_twoPow f (by decide)

theorem flagPriority_eq_decide (f : Byte) : flagPriority f = decide (Priority f) := getLsbD_eq_decide_and_twoPow f (by decide)

/-! ### The parts of DECODE on a stream that begins with their bytes (40_decode R140) -/

/-- Line 5 reads the Pad Length when the flags say there is one. -/
theorem parsePadLength_of_avail {padded : Bool} {rd : Rd} {pad : Byte} {rest : List Byte} (rem : Nat)
    (h : rd.avail = (if padded then [pad] else []) ++ rest) :
    ∃ rd', parsePadLength padded ((if padded then 1 else 0) + rem) rd = .done (if padded then pad else 0#8, rem) rd' ∧
      rd'.avail = rest := by
  cases padded with
  | false => exact ⟨rd, by simp [parsePadLength], h⟩
  | true =>
    obtain ⟨rd', hr, ha, -⟩ := Rd.rdU8_of_avail h
    exact ⟨rd', by simp [parsePadLength, hr, Parse.ofRead, Parse.andThen], ha⟩

/-- Line 6 reads the priority block when the flags say there is one. -/
theorem parsePriority_of_avail {priority : Bool} {rd : Rd} {p : Prio} {rest : List Byte} (rem : Nat)
    (h : rd.avail = (if priority then beBytes (packOr p.excl p.sdep) ++ [p.weight] else []) ++ rest) :
    ∃ rd', parsePriority priority ((if priority then 5 else 0) + rem) rd =
        .done (if priority then some p else none, rem) rd' ∧ rd'.avail = rest := by
  cases priority with
  | false => exact ⟨rd, by simp [parsePriority], h⟩
  | true =>
    obtain ⟨rd1, hw, ha1, -⟩ := Rd.rdU32BE_of_avail h
    obtain ⟨rd2, hg, ha2, -⟩ := Rd.rdU8_of_avail ha1
    exact ⟨rd2, by simp [parsePriority, hw, hg, Parse.ofRead, Parse.andThen, unpack_beWord_packOr], ha2⟩

theorem Rd.rdSlices_of_avail {rd : Rd} {l rest : List Byte} (sizes : List Nat) (h : rd.avail = l ++ rest) :
    ∃ blocks rd', rd.rdSlices sizes l.length = .done blocks rd' ∧ concat blocks = l ∧ rd'.avail = rest := by
  obtain ⟨rd', hm⟩ := Rd.memRead_of_le (rd := rd) (n := l.length) (by simp [h])
  obtain ⟨-, -, ha, -⟩ := Rd.memRead_done hm
  have hr : rd.rdSlices sizes l.length = .done (if l.length = 0 then [] else cut sizes (rd.avail.take l.length)) rd' := by
    simp [Rd.rdSlices, hm]
  obtain ⟨-, hc, -⟩ := Rd.rdSlices_done hr
  exact ⟨_, rd', hr, by simpa [h] using hc, by simpa [h] using ha⟩

theorem Rd.rdSkip_of_avail {rd : Rd} {l rest : List Byte} (h : rd.avail = l ++ rest) :
    ∃ rd', rd.rdSkip l.length = .done () rd' ∧ rd'.avail = rest := by
  obtain ⟨rd', hm⟩ := Rd.memRead_of_le (rd := rd) (n := l.length) (by simp [h])
  obtain ⟨-, -, ha, -⟩ := Rd.memRead_done hm
  exact ⟨rd', by simp [Rd.rdSkip, hm], by simpa [h] using ha⟩

/-- Lines 7 to 10 read the fragment and drop the padding. -/
theorem parseBlocks_of_avail {rd : Rd} {pad : Byte} {fragment padding rest : List Byte} (sizes : List Nat)
    (hp : padding.length = pad.toNat) (h : rd.avail = fragment ++ (padding ++ rest)) :
    ∃ blocks rd', parseBlocks sizes pad (fragment.length + padding.length) rd = .done (blocks, fragment.length) rd' ∧
      concat blocks = fragment ∧ rd'.avail = rest := by
  obtain ⟨blocks, rd1, hb, hc, ha1⟩ := Rd.rdSlices_of_avail sizes h
  obtain ⟨rd2, hs, ha2⟩ := Rd.rdSkip_of_avail ha1
  rw [hp] at hs
  exact ⟨blocks, rd2, by simp [parseBlocks, hp, hb, hs, Parse.ofRead, Parse.andThen], hc, ha2⟩

/-! ### The payload as a whole -/

/-- The payload of the statements, with the model's flag predicates and its packed word. -/
theorem payload_or_eq (f pad : Byte) (p : Prio) (fragment padding : List Byte) :
    payload .or f pad p fragment padding =
      (if flagPadded f then [pad] else []) ++
        ((if flagPriority f then beBytes (packOr p.excl p.sdep) ++ [p.weight] else []) ++
          (fragment ++ if flagPadded f then padding else [])) := by
  simp [payload, flagPadded_eq_decide, flagPriority_eq_decide, beBytes_packOr]

theorem length_payload_or (f pad : Byte) (p : Prio) (fragment padding : List Byte) :
    (payload .or f pad p fragment padding).length =
      (if flagPadded f then 1 else 0) +
        ((if flagPriority f then 5 else 0) + (fragment.length + (if flagPadded f then padding else []).length)) := by
  rw [payload_or_eq]
  cases flagPadded f <;> cases flagPriority f <;> simp <;> omega

/-- Lines 4 to 10 of DECODE read the fields of a payload that the stream begins with, and leave what follows it. -/
theorem parsePayload_of_payload {rd : Rd} {f pad : Byte} {p : Prio} {fragment padding rest : List Byte} (sizes : List Nat)
    (hp : padding.length = pad.toNat) (h : rd.avail = payload .or f pad p fragment padding ++ rest) :
    ∃ blocks rd', parsePayload sizes f (payload .or f pad p fragment padding).length rd =
        .done { pad := if flagPadded f then pad else 0#8, prio := if flagPriority f then some p else none
                blocks := blocks, hlen := fragment.length } rd' ∧
      concat blocks = fragment ∧ rd'.avail = rest := by
  rw [payload_or_eq, List.append_assoc, List.append_assoc, List.append_assoc] at h
  obtain ⟨rd1, h1, ha1⟩ := parsePadLength_of_avail
    ((if flagPriority f then 5 else 0) + (fragment.length + (if flagPadded f then padding else []).length)) h
  obtain ⟨rd2, h2, ha2⟩ := parsePriority_of_avail (fragment.length + (if flagPadded f then padding else []).length) ha1
  have hlen : (if flagPadded f then padding else []).length = (if flagPadded f then pad else 0#8).toNat := by
    cases flagPadded f <;> simp [hp]
  obtain ⟨blocks, rd3, h3, hc, ha3⟩ := parseBlocks_of_avail sizes hlen ha2
  refine ⟨blocks, rd3, ?_, hc, ha3⟩
  rw [length_payload_or]
  simp only [parsePayload, h1, h2, h3, Parse.andThen]

/-- Lines 4 to 11 of DECODE, passed the checks of lines 1 to 3, where the parse is done. -/
theorem exec_decode_of_parse_done {s : State} {f l x : Word} {p : Payload} {rd : Rd} (hp : s.phase = .fresh)
    (hpo : s.rd.poisoned = false) (ho : decodeOperandsInRange f l x = true)
    (h : parsePayload (Config.sliceSizes s.draws) (low8 f) (low24 l).toNat s.rd = .done p rd) :
    exec (.decode f l x) s = .next
      ({ s with
        flags := low8 f, len := low24 l, sid := low31 x, pad := p.pad, prio := p.prio, hblk := some p.blocks
        hlen := some p.hlen, lenstale := false, phase := .decoded, rd := rd, draws := s.draws + 1 }.respond .empty) := by
  simp [exec, execDecode, hp, hpo, ho, decodeBody, h]

/-! ### The operands of DECODE (30_encoding R127) -/

theorem inRange_iff {hi : Nat} {a : Word} : inRange hi a = true ↔ 0 ≤ a.toInt ∧ a.toInt ≤ hi := by simp [inRange]

theorem sidInRange_of_nonneg {x : Word} (h : 0 ≤ x.toInt) : sidInRange x = true :=
  inRange_iff.2 ⟨h, Int.le_of_lt_add_one (BitVec.toInt_lt (x := x))⟩

theorem lengthInRange_ofNat {n : Nat} (h : n ≤ lenMax) : lengthInRange (BitVec.ofNat 32 n) = true := by
  have hle : n ≤ 16777215 := h
  have hn : (BitVec.ofNat 32 n).toNat = n := Nat.mod_eq_of_lt (by omega)
  have hint : (BitVec.ofNat 32 n).toInt = n := by rw [BitVec.toInt_eq_toNat_of_lt (by omega), hn]
  exact inRange_iff.2 ⟨by omega, by omega⟩

theorem toNat_low24_ofNat {n : Nat} (h : n ≤ lenMax) : (low24 (BitVec.ofNat 32 n)).toNat = n := by
  have hle : n ≤ 16777215 := h
  simp [low24]
  omega

/-! ### A payload row, delivered and decoded -/

/-- A wire row that arrives on an open stream, with no DECODE pending, is its bytes appended (20_memory R85, log 15). -/
theorem step_wire {s : State} {r : Raw} {i : Instr} {rest : List Input} (hin : s.inputs = .raw r :: rest)
    (hd : decode r = .ok i) (hw : i.isWire = true) (hh : s.held = none) (ho : s.rd.closed = false) :
    step s = .next { s with inputs := rest, rd := s.rd.append (wireBytes i) } := by
  rw [step_of_inputs hin, accept, issue_wire hd hw, State.deliver_of_open (s := { s with inputs := rest }) ho]
  exact resume_of_held_none hh

/-- The host's instruction that arrives with nothing pending is run on what is left to arrive (20_memory R80). -/
theorem step_command {s : State} {r : Raw} {i : Instr} {rest : List Input} (hin : s.inputs = .raw r :: rest)
    (hd : decode r = .ok i) (hw : i.isWire = false) (hh : s.held = none) : step s = exec i { s with inputs := rest } := by
  obtain ⟨hrun, -⟩ := stepRunsTheDecodedInstruction s r rest i hin hd
  exact hrun hw hh

@[simp] theorem Rd.poisoned_append (rd : Rd) (c : List Byte) : (rd.append c).poisoned = rd.poisoned := by cases c <;> rfl

/-- A payload row is the payload of its fields, whose gated fields are the effective ones (30_encoding R101 to R105). -/
theorem exists_payload_of_payloadFields {i : Instr} {flags pad : Byte} {prio : Option Prio} {fragment : List Byte}
    (hw : WellFormed i) (hi : payloadFields i = some (flags, pad, prio, fragment)) :
    ∃ p padding, wireImage i = payload .or flags pad p fragment padding ∧ padding.length = pad.toNat ∧
      (if flagPadded flags then pad else 0#8) = pad ∧ (if flagPriority flags then some p else none) = prio := by
  rw [flagPadded_eq_decide, flagPriority_eq_decide]
  cases i with
  | headersN =>
    cases hi
    obtain ⟨hf, -⟩ := wellFormed_headersN_iff.1 hw
    exact ⟨_, _, rfl, rfl, by simp, by simp [priority_iff_of_layout hf]⟩
  | headersP =>
    cases hi
    obtain ⟨hf, hp, -⟩ := wellFormed_headersP_iff.1 hw
    exact ⟨_, _, rfl, hp, by simp [padded_iff_of_layout hf], by simp [priority_iff_of_layout hf]⟩
  | headersQ =>
    cases hi
    obtain ⟨hf, -⟩ := wellFormed_headersQ_iff.1 hw
    exact ⟨_, _, rfl, rfl, by simp, by simp [priority_iff_of_layout hf]⟩
  | headersPQ =>
    cases hi
    obtain ⟨hf, hp, -⟩ := wellFormed_headersPQ_iff.1 hw
    exact ⟨_, _, rfl, hp, by simp [padded_iff_of_layout hf], by simp [priority_iff_of_layout hf]⟩
  | _ => cases hi

theorem isWire_of_payloadFields {i : Instr} {x : Byte × Byte × Option Prio × List Byte} (h : payloadFields i = some x) :
    i.isWire = true := by
  cases i with
  | headersN | headersP | headersQ | headersPQ => rfl
  | _ => cases h

theorem Rd.buf_eq_nil {rd : Rd} (hw : rd.wf) (h : rd.avail = []) : rd.buf = [] :=
  List.eq_nil_iff_forall_not_mem.2 fun c hc => hw c hc (List.flatten_eq_nil_iff.1 h c hc)

/-- The DECODE word of 30_encoding R121 for a payload, its operands its flags byte and its length: on a fresh frame whose
stream holds just that payload, the registers are its fields and the stream is empty. -/
theorem step_decode_of_payload {s : State} {flags pad : Byte} {p : Prio} {fragment padding bytes : List Byte} {x : Word}
    {rest : List Input}
    (hin : s.inputs = .raw (.command (word 0x20 (flags.setWidth 32) (BitVec.ofNat 32 bytes.length) x) []) :: rest)
    (hp : s.phase = .fresh) (hh : s.held = none) (hpo : s.rd.poisoned = false) (hwf : s.rd.wf) (hx : 0 ≤ x.toInt)
    (hav : s.rd.avail = bytes) (hbytes : bytes = payload .or flags pad p fragment padding)
    (hpad : padding.length = pad.toNat) (hmax : bytes.length ≤ lenMax) :
    ∃ u, step s = .next u ∧ u.phase = .decoded ∧ u.flags = flags ∧ u.pad = (if flagPadded flags then pad else 0#8) ∧
      u.prio = (if flagPriority flags then some p else none) ∧ u.hblk.map concat = some fragment ∧
      u.hlen = some fragment.length ∧ u.len.toNat = bytes.length ∧ u.rd.buf = [] ∧ u.inputs = rest := by
  obtain ⟨blocks, rd, hparse, hblocks, hrest⟩ :=
    parsePayload_of_payload (rest := []) (Config.sliceSizes s.draws) hpad (by rw [hav, hbytes, List.append_nil])
  obtain ⟨n, hconsumed⟩ := parsePayload_done_consumed hparse
  have hlen := toNat_low24_ofNat hmax
  rw [← hbytes, ← hlen, ← low8_setWidth flags] at hparse
  have hoperands : decodeOperandsInRange (flags.setWidth 32) (BitVec.ofNat 32 bytes.length) x = true := by
    simp [decodeOperandsInRange, lengthInRange_ofNat hmax, sidInRange_of_nonneg hx]
  have hd := everyCommandWordReadsAsTheOpcodeMapSays 0x20 (flags.setWidth 32) (BitVec.ofNat 32 bytes.length) x [] (by decide)
  exact ⟨_, (step_command hin hd rfl hh).trans (exec_decode_of_parse_done hp hpo hoperands hparse), rfl, low8_setWidth flags,
    by simp, by simp, by simp [hblocks], rfl, hlen, Rd.buf_eq_nil (hconsumed.wf hwf) hrest, rfl⟩

/-- Settles O53: the first step appends the payload to the stream, which was empty; the second reads its fields back. -/
theorem aDeliveredPayloadDecodesToItsFields : Obligations.ADeliveredPayloadDecodesToItsFields := by
  intro i s flags pad prio fragment x rest hw hi hp hh hpo ho hb hx hin
  obtain ⟨p, padding, himg, hpad, heffPad, heffPrio⟩ := exists_payload_of_payloadFields hw hi
  have hbytes := wireImage_eq_wireBytes hw
  have hmax : (wireImage i).length ≤ lenMax := hbytes ▸ length_wireBytes_le_lenMax hw
  have hdeliver := step_wire hin (decodingAnEncodedInstructionGivesItBack i hw) (isWire_of_payloadFields hi) hh ho
  rw [← hbytes, BitVec.ofNat_toNat] at hdeliver
  have hwf : s.rd.wf := by simp [Rd.wf, hb]
  have havail : (s.rd.append (wireImage i)).avail = wireImage i := by
    rw [Rd.avail_append, Rd.avail, hb]
    rfl
  obtain ⟨u, hdecode⟩ := step_decode_of_payload
    (s := { s with
      inputs := .raw (.command (word 0x20 (flags.setWidth 32) (BitVec.ofNat 32 (wireImage i).length) x) []) :: rest
      rd := s.rd.append (wireImage i) })
    rfl hp hh ((Rd.poisoned_append _ _).trans hpo) (Rd.append_keeps_wf _ hwf) hx havail himg hpad hmax
  rw [heffPad, heffPrio] at hdecode
  exact ⟨_, u, hdeliver, hdecode⟩

end Sys2Proof.Machine
end

section
/-! BUILD (30_encoding R124, 44_frame_fields R196): what each of its commands does on legal operands, one after the other. -/
namespace Sys2Proof.Machine
open Sys2Proof.Claims

/-! ### Operands as the values they write (30_encoding R127) -/

theorem low8_eq_ofNat (a : Word) : low8 a = BitVec.ofNat 8 a.toNat := by simp [low8, BitVec.extractLsb']

theorem low31_eq_ofNat (a : Word) : low31 a = BitVec.ofNat 31 a.toNat := by simp [low31, BitVec.extractLsb']

/-- An exclusive operand in its range is its one bit. -/
theorem low1_eq_beq_one {e : Word} (h0 : 0 ≤ e.toInt) (h1 : e.toInt ≤ 1) : low1 e = (e.toNat == 1) := by
  have hlt : e.toNat < 2 := by
    rw [BitVec.toInt_eq_toNat_cond] at h0 h1
    split at h1 <;> omega
  rw [low1, BitVec.getLsbD, Nat.testBit_zero]
  interval_cases e.toNat <;> rfl

/-! ### One command after the other (20_memory R80) -/

theorem execAll_cons_of_next {i : Instr} {is : List Instr} {s t u : State} (h1 : exec i s = .next t)
    (h2 : execAll is t = .next u) : execAll (i :: is) s = .next u := by
  rw [execAll, h1]
  exact h2

theorem execAll_append_of_next {is js : List Instr} {s t u : State} (h1 : execAll is s = .next t)
    (h2 : execAll js t = .next u) : execAll (is ++ js) s = .next u := by
  induction is generalizing s with
  | nil => cases h1; exact h2
  | cons i is ih =>
    rw [execAll] at h1
    cases hi : exec i s with
    | next s' => rw [hi] at h1; exact execAll_cons_of_next hi (ih h1)
    | fault r => rw [hi] at h1; cases h1
    | refused r => rw [hi] at h1; cases h1

/-- Where BUILD stands between its setters: on a fresh frame, the length stale and the last command completed. -/
structure State.UnderConstruction (s : State) : Prop where
  phase : s.phase = .fresh
  lenstale : s.lenstale = true
  resp : s.resp = some (.ok .empty)

theorem exec_setflags_of_fresh {s : State} {f : Word} (hp : s.phase = .fresh) (hf : flagsInRange f = true) :
    exec (.setflags f) s = .next ({ s with flags := low8 f, lenstale := true }.respond .empty) := by
  simp [exec, execSetflags, hp, hf]

theorem exec_setsid_of_fresh {s : State} {i : Word} (hp : s.phase = .fresh) (hi : sidInRange i = true) :
    exec (.setsid i) s = .next ({ s with sid := low31 i }.respond .empty) := by
  simp [exec, execSetsid, hp, hi]

/-- NEW, SETFLAGS and SETSID on legal operands (44_frame_fields R180 to R182). -/
theorem execAll_new_setflags_setsid {f i : Word} (hf : flagsInRange f = true) (hi : sidInRange i = true) (s : State) :
    execAll [.new, .setflags f, .setsid i] s =
      .next ({ s.newFrame with flags := low8 f, sid := low31 i }.respond .empty) :=
  execAll_cons_of_next rfl (execAll_cons_of_next (exec_setflags_of_fresh rfl hf)
    (execAll_cons_of_next (exec_setsid_of_fresh rfl hi) rfl))

/-- SETPAD, or nothing where the pad length is left out (44_frame_fields R183). -/
theorem execAll_setpad_option {s : State} {pad : Option Word} (hs : s.UnderConstruction) (hpad : s.pad = 0#8)
    (h : ∀ n, pad = some n → padInRange n = true) :
    execAll (pad.map Instr.setpad).toList s = .next { s with pad := low8 (pad.getD 0) } := by
  obtain ⟨hp, hl, hr⟩ := hs
  cases pad with
  | none =>
    cases s
    cases hpad
    rfl
  | some n => simp [execAll, andThen, exec, execSetpad, hp, h n rfl, State.respond, hl, hr]

/-- The priority group an operand triple writes. -/
def prioOfOperands (q : Word × Word × Word) : Prio := { excl := low1 q.2.1, sdep := low31 q.1, weight := low8 q.2.2 }

/-- SETPRIO, or nothing where the priority is left out (44_frame_fields R184). -/
theorem execAll_setprio_option {s : State} {prio : Option (Word × Word × Word)} (hs : s.UnderConstruction)
    (hprio : s.prio = none)
    (h : ∀ d e g, prio = some (d, e, g) → sdepInRange d = true ∧ exclInRange e = true ∧ weightInRange g = true) :
    execAll (prio.map fun q => Instr.setprio q.1 q.2.1 q.2.2).toList s =
      .next { s with prio := prio.map prioOfOperands } := by
  obtain ⟨hp, hl, hr⟩ := hs
  cases prio with
  | none =>
    cases s
    cases hprio
    rfl
  | some q =>
    obtain ⟨hd, he, hg⟩ := h q.1 q.2.1 q.2.2 rfl
    simp [execAll, andThen, exec, execSetprio, hp, hd, he, hg, State.respond, hl, hr, prioOfOperands]

/-- `ExpLen` of the model is that of the statements (30_encoding R116). -/
theorem State.expLen_eq_expectedLength {s : State} {n : Nat} (h : s.hlen = some n) :
    s.expLen = expectedLength s.flags s.pad n := by
  simp [State.expLen, expectedLength, h, flagPadded_eq_decide, flagPriority_eq_decide]

/-- COMPLEN on a fresh frame with header blocks, where the length fits (41_length R150). -/
theorem exec_complen_of_fits {s : State} {n : Nat} (hp : s.phase = .fresh) (hb : s.hblk ≠ none) (hn : s.hlen = some n)
    (hl : expectedLength s.flags s.pad n ≤ lenMax) :
    exec .complen s =
      .next ({ s with len := BitVec.ofNat 24 (expectedLength s.flags s.pad n), lenstale := false }.respond
        (.length (BitVec.ofNat 24 (expectedLength s.flags s.pad n)))) := by
  rw [← State.expLen_eq_expectedLength hn] at hl ⊢
  simp [exec, execComplen, hp, hb, Nat.not_lt_of_le hl]

theorem exec_setblocks_of_fresh {s : State} (hp : s.phase = .fresh) (b : List Slice) :
    exec (.setblocks b) s =
      .next ({ s with hblk := some b, hlen := some (size b), lenstale := true }.respond .empty) := by
  simp [exec, execSetblocks, hp]

/-- SETBLOCKS, then COMPLEN (44_frame_fields R185, 41_length R150). -/
theorem execAll_setblocks_complen {s : State} {b : List Slice} (hp : s.phase = .fresh)
    (hl : expectedLength s.flags s.pad (size b) ≤ lenMax) :
    execAll [.setblocks b, .complen] s =
      .next ({ s with
        hblk := some b, hlen := some (size b), len := BitVec.ofNat 24 (expectedLength s.flags s.pad (size b))
        lenstale := false }.respond (.length (BitVec.ofNat 24 (expectedLength s.flags s.pad (size b))))) :=
  execAll_cons_of_next (exec_setblocks_of_fresh hp b)
    (execAll_cons_of_next (exec_complen_of_fits hp (by simp) rfl hl) rfl)

theorem size_eq_sum_lengths (b : List Slice) : size b = (b.map List.length).sum := by simp [size, concat, List.length_flatten]

/-- Settles O56: the five parts of the expansion one after the other, an option that is left out keeping what NEW wrote. -/
theorem buildConstructsAFrameInOneStep : Obligations.BuildConstructsAFrameInOneStep := by
  intro s f i pad prio blocks hf0 hf1 hi hpad hprio hlen
  rw [← size_eq_sum_lengths] at hlen ⊢
  rw [← low8_eq_ofNat, ← low8_eq_ofNat] at hlen
  have hpadRange : ∀ n, pad = some n → padInRange n = true := fun n h => inRange_iff.2 (hpad n h)
  have hprioRange : ∀ d e g, prio = some (d, e, g) →
      sdepInRange d = true ∧ exclInRange e = true ∧ weightInRange g = true := fun d e g h => by
    obtain ⟨hd, he0, he1, hg⟩ := hprio d e g h
    exact ⟨sidInRange_of_nonneg hd, inRange_iff.2 ⟨he0, he1⟩, inRange_iff.2 hg⟩
  have hmap : prio.map prioOfOperands =
      prio.map fun q => ⟨q.2.1.toNat == 1, BitVec.ofNat 31 q.1.toNat, BitVec.ofNat 8 q.2.2.toNat⟩ := by
    cases prio with
    | none => rfl
    | some q =>
      obtain ⟨-, he0, he1, -⟩ := hprio q.1 q.2.1 q.2.2 rfl
      simp [prioOfOperands, low1_eq_beq_one he0 he1, low8_eq_ofNat, low31_eq_ofNat]
  refine ⟨_, execAll_append_of_next (execAll_append_of_next (execAll_append_of_next
    (execAll_new_setflags_setsid (inRange_iff.2 ⟨hf0, hf1⟩) (sidInRange_of_nonneg hi) s)
    (execAll_setpad_option ⟨rfl, rfl, rfl⟩ rfl hpadRange))
    (execAll_setprio_option ⟨rfl, rfl, rfl⟩ rfl hprioRange))
    (execAll_setblocks_complen rfl hlen), rfl, rfl, rfl, rfl, low8_eq_ofNat f, low31_eq_ofNat i, low8_eq_ofNat _, hmap, rfl,
    rfl, ?_, rfl, rfl⟩
  exact (BitVec.toNat_ofNat _ _).trans (Nat.mod_eq_of_lt (Nat.lt_succ_of_le hlen))

end Sys2Proof.Machine
end

section
/-! DECODE before any byte is read: the checks of lines 1 to 3 (40_decode R140), which a pending DECODE passes through again
after the stream moved (R141). -/
namespace Sys2Proof.Machine
open Sys2Proof.Claims

/-! ### Lines 1 to 3 (40_decode R140) -/

theorem decodeOperandsInRange_iff {f l i : Word} : decodeOperandsInRange f l i = true ↔ DecodeOperands f l i := by
  have hi : i.toInt ≤ 2147483647 := Int.le_of_lt_add_one (BitVec.toInt_lt (x := i))
  simp [decodeOperandsInRange, flagsInRange, lengthInRange, sidInRange, inRange_iff, hi, and_assoc]

/-- A DECODE that passes lines 1 to 3 goes on with line 4. -/
theorem exec_decode_of_starts {s : State} {f l i : Word} (h : DecodeStarts s f l i) :
    exec (.decode f l i) s = .next (decodeBody f l i s) := by
  obtain ⟨hp, hpo, ho⟩ := h
  simp [exec, execDecode, hp, hpo, decodeOperandsInRange_iff.2 ho]

/-- Settles O40: the three checks in their order, each with the fault entry alone. -/
theorem decodeChecksPhasePoisonAndOperandsFirst : Obligations.DecodeChecksPhasePoisonAndOperandsFirst := by
  refine ⟨fun f l i blk => ?_, fun f l i s hp => ?_, fun f l i s hp hpo => ?_, fun f l i s hp hpo ho => ?_⟩
  · exact everyCommandWordReadsAsTheOpcodeMapSays 0x20 f l i blk (by decide)
  · simp [exec, execDecode, State.ifFresh, hp, State.raise_eq_faulted]
  · simp [exec, execDecode, hp, hpo, State.raise_eq_faulted]
  · simp [exec, execDecode, hp, hpo, mt decodeOperandsInRange_iff.1 ho, State.raise_eq_faulted]

/-! ### A pending DECODE (40_decode R141) -/

theorem resume_of_held {s : State} {h : Held} (hh : s.held = some h) :
    resume s = exec (.decode h.f h.l h.s) { s with held := none } := by
  simp [resume, hh]

/-- Settles O7: the move changes the stream, and the pending DECODE is resumed on it. -/
theorem pendingDecodeIsEvaluatedAgainAfterTheStreamMoves :
    Obligations.PendingDecodeIsEvaluatedAgainAfterTheStreamMoves := by
  refine fun s h rest hh => ⟨fun c hin hc ho => ?_, fun hin ho => ?_⟩
  · exact (step_appendChunk hin hc ho).trans (resume_of_held hh)
  · exact (step_close hin ho).trans (resume_of_held hh)

end Sys2Proof.Machine
end

section
/-! DECODE of a payload the stream begins with (40_decode R140, R142 to R146): the registers it sets and the bytes it
consumes, that the bytes of the padding do not matter, and the round trip with ENCODE. -/
namespace Sys2Proof.Machine
open Sys2Proof.Claims

/-! ### A payload at the front of the stream (40_decode R140, R142, R143) -/

theorem low24_eq_ofNat (a : Word) : low24 a = BitVec.ofNat 24 a.toNat := by simp [low24, BitVec.extractLsb']

theorem toNat_low24_of_inRange {l : Word} (h0 : 0 ≤ l.toInt) (h1 : l.toInt ≤ 16777215) : (low24 l).toNat = l.toNat := by
  have hl := l.isLt
  rw [BitVec.toInt_eq_toNat_cond] at h0 h1
  rw [low24_eq_ofNat, BitVec.toNat_ofNat]
  split at h1 <;> omega

/-- A stream that has consumed bytes differs in its chunks and its cursor only. -/
theorem Rd.Consumed.eq_update {rd rd' : Rd} {n : Nat} (h : rd.Consumed rd' n) :
    rd' = { rd with buf := rd'.buf, pos := rd.pos + n } := by
  rw [← h.pos, ← h.closed, ← h.poisoned]

/-- What stood before the bytes that are left was consumed. -/
theorem Rd.Consumed.eq_length {rd rd' : Rd} {n : Nat} {front : List Byte} (h : rd.Consumed rd' n)
    (ha : rd.avail = front ++ rd'.avail) : n = front.length := by
  have henough := h.enough
  have hleft := congrArg List.length h.avail
  rw [List.length_drop] at hleft
  rw [ha, List.length_append] at henough hleft
  omega

/-- Settles O41: lines 4 to 10 read the fields, and the bytes they leave are those after the payload, so they consumed it
whole. -/
theorem decodeReadsTheFieldsOfThePayload : Obligations.DecodeReadsTheFieldsOfThePayload := by
  intro s f l i pad p fragment padding rest ⟨hp, hpo, ho⟩ hpad havail hlen
  have hrange := decodeOperandsInRange_iff.2 ho
  obtain ⟨blocks, rd, hparse, hblocks, hrest⟩ := parsePayload_of_payload (Config.sliceSizes s.draws) hpad havail
  obtain ⟨n, hconsumed⟩ := parsePayload_done_consumed hparse
  obtain rfl : n = l.toNat := (hconsumed.eq_length (hrest.symm ▸ havail)).trans hlen
  obtain ⟨-, -, hl0, hl1, -⟩ := ho
  rw [hlen, ← toNat_low24_of_inRange hl0 hl1, ← low8_eq_ofNat] at hparse
  refine ⟨blocks, rd.buf, s.draws + 1, hblocks, hrest, ?_⟩
  rw [exec_decode_of_parse_done hp hpo hrange hparse, ← hconsumed.eq_update]
  simp [State.respond, low8_eq_ofNat, low24_eq_ofNat, low31_eq_ofNat, flagPadded_eq_decide, flagPriority_eq_decide]

/-- Settles O45: both payloads have the length DECODE is given, and no register depends on the padding. -/
theorem paddingBytesDoNotMatter : Obligations.PaddingBytesDoNotMatter := by
  intro s f l i buf1 buf2 pad p fragment padding1 padding2 rest hs hpad1 hpad2 hlen1 hbuf1 hbuf2
  have hlen2 : (payload .or (BitVec.ofNat 8 f.toNat) pad p fragment padding2).length = l.toNat := by
    rw [← hlen1, length_payload_or, length_payload_or]
    cases flagPadded (BitVec.ofNat 8 f.toNat) <;> simp [hpad1, hpad2]
  obtain ⟨blocks1, _, _, hblocks1, -, ht⟩ := decodeReadsTheFieldsOfThePayload
    { s with rd := { s.rd with buf := buf1 } } f l i pad p fragment padding1 rest hs hpad1 hbuf1 hlen1
  obtain ⟨blocks2, _, _, hblocks2, -, hu⟩ := decodeReadsTheFieldsOfThePayload
    { s with rd := { s.rd with buf := buf2 } } f l i pad p fragment padding2 rest hs hpad2 hbuf2 hlen2
  exact ⟨_, _, ht, hu, rfl, rfl, ⟨rfl, rfl, rfl, rfl, rfl, rfl, rfl, congrArg some (hblocks1.trans hblocks2.symm)⟩, rfl⟩

/-! ### The round trip (40_decode R146) -/

/-- The payload of the frame in the register file, in the layout its flags select; no priority counts as one of zeros. -/
def State.payloadBytes (s : State) : List Byte :=
  payload .or s.flags s.pad (s.prio.getD ⟨false, 0, 0⟩) (concat (s.hblk.getD [])) (List.replicate s.pad.toNat 0x00#8)

/-- In mode OR lines 5 to 8 of ENCODE append the payload, if there is a priority where one is to send (42_encode R160). -/
theorem State.content_emitPayload_or {s : State} (hm : s.packMode = .or) (hq : Priority s.flags → s.prio ≠ none)
    (wr : Wr) : (s.emitPayload wr).content = wr.content ++ s.payloadBytes := by
  rw [State.content_emitPayload, State.payloadBytes, payload_or_eq]
  cases hprio : s.prio with
  | none =>
    have hnot : flagPriority s.flags = false := by simpa [flagPriority_eq_decide] using fun h => hq h hprio
    simp [hnot]
  | some p => simp [hm, pack]

/-- The payload is as long as the length formula says (30_encoding R116). -/
theorem State.length_payloadBytes {s : State} (h : s.HeaderLengthInv) : s.payloadBytes.length = s.expLen := by
  have hfragment : s.hlen.getD 0 = (concat (s.hblk.getD [])).length := by
    rw [h]
    cases s.hblk <;> rfl
  rw [State.payloadBytes, length_payload_or, State.expLen, hfragment]
  cases flagPadded s.flags <;> simp
  omega

theorem exec_encode_of_ready {s : State} (hp : s.phase = .fresh) (hl : s.lenstale = false)
    (hq : Priority s.flags → s.prio ≠ none) :
    exec .encode s =
      .next ({ s with wr := s.emitPayload (s.wr.memWrite s.headerBytes), phase := .serialized }.respond .empty) := by
  have hnot : (flagPriority s.flags && s.prio.isNone) = false := by
    simpa [flagPriority_eq_decide, Option.isSome_iff_ne_none] using hq
  simp [exec, execEncode, hp, hl, hnot]

theorem State.effPad_eq (s : State) : s.effPad = if Padded s.flags then s.pad else 0#8 := by
  simp [State.effPad, flagPadded_eq_decide]

theorem State.effPrio_eq (s : State) : s.effPrio = if Priority s.flags then s.prio else none := by
  simp [State.effPrio, flagPriority_eq_decide]

theorem toInt_setWidth_of_lt {w : Nat} (hw : w < 32) (x : BitVec w) : (x.setWidth 32).toInt = x.toNat := by
  have hx : x.toNat < 2 ^ 31 := x.isLt.trans_le (Nat.pow_le_pow_right (by decide) (Nat.le_of_lt_succ hw))
  have hn := BitVec.toNat_setWidth_of_le (b := x) hw.le
  rw [BitVec.toInt_eq_toNat_of_lt (by omega), hn]

/-- The values of registers are operands in range (30_encoding R127). -/
theorem decodeOperands_of_registers (f : Byte) (l : Len) (i : Sid) :
    DecodeOperands (f.setWidth 32) (l.setWidth 32) (i.setWidth 32) := by
  have hf := f.isLt
  have hl := l.isLt
  simp only [DecodeOperands, toInt_setWidth_of_lt (w := 8) (by decide), toInt_setWidth_of_lt (w := 24) (by decide),
    toInt_setWidth_of_lt (w := 31) (by decide)]
  omega

/-- Settles O47: what ENCODE appends after the header is a payload in the layout of the flags, of the length LEN, so DECODE
reads its fields back; they are the frame's, the gated ones by their effective value. -/
theorem decodeOfEncodeIsTheSameFrame : Obligations.DecodeOfEncodeIsTheSameFrame := by
  intro a hinv hp hl hq hm
  obtain ⟨-, hlength⟩ := hinv.length
  obtain ⟨hsome, hlen⟩ := hlength (by simp [hp]) hl
  have hbytes : a.payloadBytes.length = a.len.toNat := (State.length_payloadBytes hinv.headerLength).trans hlen.symm
  refine ⟨_, a.payloadBytes, exec_encode_of_ready hp hl hq, ?_, fun b rest hbp hbpo hbuf => ?_⟩
  · exact (State.content_emitPayload_or hm hq _).trans (congrArg (· ++ _) (Wr.content_memWrite _ _))
  · have hread := decodeReadsTheFieldsOfThePayload b (a.flags.setWidth 32) (a.len.setWidth 32) (a.sid.setWidth 32) a.pad
      (a.prio.getD ⟨false, 0, 0⟩) (concat (a.hblk.getD [])) (List.replicate a.pad.toNat 0x00#8) rest
      ⟨hbp, hbpo, decodeOperands_of_registers _ _ _⟩ List.length_replicate
    simp only [BitVec.ofNat_toNat, BitVec.setWidth_eq, BitVec.toNat_setWidth_of_le, Nat.reduceLeDiff] at hread ⊢
    obtain ⟨blocks, buf, n, hblocks, hrest, hu⟩ := hread hbuf hbytes
    obtain ⟨block, hblock⟩ := Option.isSome_iff_exists.1 hsome
    refine ⟨_, hu, rfl, ⟨rfl, rfl, rfl, rfl, ?_, ?_, ?_, ?_⟩, hrest, congrArg (b.rd.pos + ·) hbytes.symm⟩
    · by_cases h : Padded a.flags <;> simp [State.effPad_eq, h]
    · by_cases h : Priority a.flags
      · obtain ⟨p, hp⟩ := Option.ne_none_iff_exists'.1 (hq h)
        simp [State.effPrio_eq, h, hp]
      · simp [State.effPrio_eq, h]
    · rw [hinv.headerLength, hblock]
      rfl
    · simp [hblocks, hblock]

end Sys2Proof.Machine
end

section
/-! How lines 4 to 10 of DECODE end (40_decode R140, R141, R145): each part on the bytes available, and the parts in the
order of the lines as the statements spell them out; and so the hold on an open stream. -/
namespace Sys2Proof.Machine
open Sys2Proof.Claims

/-! ### What an ending says of a part of DECODE -/

/-- How a part of DECODE ends at a read the available bytes do not satisfy: a fault on a closed stream, a hold on an open
one (40_decode R140, R141). -/
def Parse.missing {α : Type} (rd : Rd) (sub : TruncatedSub) : Parse α :=
  if rd.closed then .fault (.truncatedInput sub) rd else .hold

/-- The ending of a part that is counted from `m` bytes earlier. -/
def endingAfter (m : Nat) : Ending → Ending
  | .malformed sub k => .malformed sub (m + k)
  | .missing sub k => .missing sub (m + k)
  | .complete => .complete

/-- A part of DECODE that started on `rd` ends as said, with as many bytes consumed. -/
def Parse.EndsAs {α : Type} (rd : Rd) (p : Parse α) : Ending → Prop
  | .malformed sub k => ∃ rd', rd.Consumed rd' k ∧ p = .fault (.malformedFrame sub) rd'
  | .missing sub k => ∃ rd', rd.Consumed rd' k ∧ p = .missing rd' sub
  | .complete => ∃ a rd', p = .done a rd'

section
variable {α β : Type} {rd rd1 : Rd} {p : Parse α} {k : α → Rd → Parse β} {m n : Nat}

theorem Parse.done_andThen (a : α) (rd : Rd) (k : α → Rd → Parse β) : (Parse.done a rd).andThen k = k a rd := rfl

theorem Parse.missing_andThen (rd : Rd) (sub : TruncatedSub) (k : α → Rd → Parse β) :
    (Parse.missing rd sub).andThen k = Parse.missing rd sub := by
  unfold Parse.missing
  split <;> rfl

/-- No later part is done after a part that is not complete. -/
theorem Parse.EndsAs.andThen {e : Ending} (h : p.EndsAs rd e) (he : e ≠ .complete) : (p.andThen k).EndsAs rd e := by
  cases e with
  | malformed sub n => obtain ⟨rd', hc, rfl⟩ := h; exact ⟨rd', hc, rfl⟩
  | missing sub n => obtain ⟨rd', hc, rfl⟩ := h; exact ⟨rd', hc, missing_andThen rd' sub k⟩
  | complete => exact absurd rfl he

/-- The bytes that earlier parts consumed count. -/
theorem Parse.EndsAs.after {e : Ending} (hc : rd.Consumed rd1 m) (h : p.EndsAs rd1 e) :
    p.EndsAs rd (endingAfter m e) := by
  cases e with
  | malformed sub n => obtain ⟨rd2, hc2, hp⟩ := h; exact ⟨rd2, hc.trans hc2, hp⟩
  | missing sub n => obtain ⟨rd2, hc2, hp⟩ := h; exact ⟨rd2, hc.trans hc2, hp⟩
  | complete => exact h

/-- One line of the statements' `ending`: its check is the one of the part, on what the parts before have left. -/
theorem Parse.EndsAs.andThen_ite {c c' : Prop} [Decidable c] [Decidable c'] {e e' e1 e2 : Ending} (hc : rd.Consumed rd1 m)
    (h : p.EndsAs rd1 (if c then e else e1)) (hcheck : c' ↔ c) (hne : e ≠ .complete) (he : c' → e' = endingAfter m e)
    (hrest : ¬ c' → p.EndsAs rd1 e1 → (p.andThen k).EndsAs rd e2) :
    (p.andThen k).EndsAs rd (if c' then e' else e2) := by
  by_cases h' : c'
  · rw [if_pos h', he h']
    rw [if_pos (hcheck.1 h')] at h
    exact (h.andThen hne).after hc
  · rw [if_neg h']
    rw [if_neg (mt hcheck.2 h')] at h
    exact hrest h' h

theorem Rd.Consumed.length_avail (h : rd.Consumed rd1 n) : rd1.avail.length = rd.avail.length - n := by
  rw [h.avail, List.length_drop]

/-! ### A read that the available bytes do not satisfy, and one that they do (20_memory R64) -/

theorem Parse.endsAs_of_short_read (sub : TruncatedSub) (f : List Byte → α) (k : α → Rd → Parse β)
    (h : rd.avail.length < n) :
    ((Parse.ofRead rd sub ((rd.memRead n).map f)).andThen k).EndsAs rd (.missing sub 0) := by
  have hread : Parse.ofRead rd sub ((rd.memRead n).map f) = Parse.missing rd sub := by
    cases hc : rd.closed with
    | true => simp [(rd.memRead_short_iff n).2 ⟨h, hc⟩, ReadResult.map, Parse.ofRead, Parse.missing, hc]
    | false => simp [(rd.memRead_hold_iff n).2 ⟨h, hc⟩, ReadResult.map, Parse.ofRead, Parse.missing, hc]
  exact ⟨rd, .refl rd, hread ▸ missing_andThen rd sub k⟩

theorem Parse.ofRead_andThen_of_le (sub : TruncatedSub) (f : List Byte → α) (k : α → Rd → Parse β)
    (h : n ≤ rd.avail.length) :
    ∃ a rd', (Parse.ofRead rd sub ((rd.memRead n).map f)).andThen k = k a rd' ∧ rd.Consumed rd' n := by
  obtain ⟨rd', hm⟩ := Rd.memRead_of_le h
  exact ⟨_, rd', by rw [hm]; rfl, .of_memRead hm⟩

end

/-! ### The parts (40_decode R140) -/

theorem parsePadLength_endsAs (padded : Bool) (rem : Nat) (rd : Rd) :
    (parsePadLength padded rem rd).EndsAs rd
      (if padded = true ∧ rem < 1 then .malformed .padLength 0
      else if padded = true ∧ rd.avail.length < 1 then .missing .padLength 0
      else .complete) := by
  cases padded with
  | false => exact ⟨_, _, rfl⟩
  | true =>
    simp only [parsePadLength, if_true, true_and, Rd.rdU8_eq_map]
    by_cases hrem : rem < 1
    · rw [if_pos hrem, if_pos hrem]
      exact ⟨rd, .refl rd, rfl⟩
    rw [if_neg hrem, if_neg hrem]
    by_cases hbyte : rd.avail.length < 1
    · rw [if_pos hbyte]
      exact Parse.endsAs_of_short_read _ _ _ hbyte
    · obtain ⟨p, rd1, h1, -⟩ := Parse.ofRead_andThen_of_le _ _ _ (Nat.le_of_not_lt hbyte)
      rw [if_neg hbyte, h1]
      exact ⟨_, _, rfl⟩

/-- The Pad Length that was read is the byte the stream began with; without the flag it is 0. -/
theorem parsePadLength_done_pad {padded : Bool} {rem rem' : Nat} {rd rd' : Rd} {pad : Byte}
    (h : parsePadLength padded rem rd = .done (pad, rem') rd') :
    pad.toNat = if padded = true then (rd.avail.headD 0#8).toNat else 0 := by
  obtain ⟨-, -, hunset, hset⟩ := parsePadLength_done h
  cases padded with
  | false => exact congrArg BitVec.toNat (hunset rfl)
  | true => simp [hset rfl]

theorem parsePriority_endsAs (priority : Bool) (rem : Nat) (rd : Rd) :
    (parsePriority priority rem rd).EndsAs rd
      (if priority = true ∧ rem < 5 then .malformed .priority 0
      else if priority = true ∧ rd.avail.length < 4 then .missing .priorityWord 0
      else if priority = true ∧ rd.avail.length < 5 then .missing .weight 4
      else .complete) := by
  cases priority with
  | false => exact ⟨_, _, rfl⟩
  | true =>
    simp only [parsePriority, if_true, true_and, Rd.rdU32BE_eq_map, Rd.rdU8_eq_map]
    by_cases hrem : rem < 5
    · rw [if_pos hrem, if_pos hrem]
      exact ⟨rd, .refl rd, rfl⟩
    rw [if_neg hrem, if_neg hrem]
    by_cases hword : rd.avail.length < 4
    · rw [if_pos hword]
      exact Parse.endsAs_of_short_read _ _ _ hword
    obtain ⟨w, rd1, h1, hc⟩ := Parse.ofRead_andThen_of_le _ _ _ (Nat.le_of_not_lt hword)
    have hleft := hc.length_avail
    rw [if_neg hword, h1]
    by_cases hweight : rd.avail.length < 5
    · rw [if_pos hweight]
      exact (Parse.endsAs_of_short_read _ _ _ (by omega)).after hc
    · obtain ⟨g, rd2, h2, -⟩ := Parse.ofRead_andThen_of_le (rd := rd1) (n := 1) _ _ _ (by omega)
      rw [if_neg hweight, h2]
      exact ⟨_, _, rfl⟩

theorem parseBlocks_endsAs (sizes : List Nat) (p : Byte) (rem : Nat) (rd : Rd) :
    (parseBlocks sizes p rem rd).EndsAs rd
      (if rem < p.toNat then .malformed .padding 0
      else if rd.avail.length < rem - p.toNat then .missing .headerBlock 0
      else if rd.avail.length < rem then .missing .padding (rem - p.toNat)
      else .complete) := by
  simp only [parseBlocks, Rd.rdSlices_eq_map, Rd.rdSkip_eq_map]
  by_cases hrem : rem < p.toNat
  · rw [if_pos hrem, if_pos hrem]
    exact ⟨rd, .refl rd, rfl⟩
  rw [if_neg hrem, if_neg hrem]
  by_cases hblock : rd.avail.length < rem - p.toNat
  · rw [if_pos hblock]
    exact Parse.endsAs_of_short_read _ _ _ hblock
  obtain ⟨blocks, rd1, h1, hc⟩ := Parse.ofRead_andThen_of_le _ _ _ (Nat.le_of_not_lt hblock)
  have hleft := hc.length_avail
  rw [if_neg hblock, h1]
  by_cases hpadding : rd.avail.length < rem
  · rw [if_pos hpadding]
    exact (Parse.endsAs_of_short_read _ _ _ (by omega)).after hc
  · obtain ⟨u, rd2, h2, -⟩ := Parse.ofRead_andThen_of_le (rd := rd1) (n := p.toNat) _ _ _ (by omega)
    rw [if_neg hpadding, h2]
    exact ⟨_, _, rfl⟩

/-! ### The parts in order -/

theorem padded_iff (f : Byte) : Padded f ↔ flagPadded f = true := by simp [flagPadded_eq_decide]

theorem priority_iff (f : Byte) : Priority f ↔ flagPriority f = true := by simp [flagPriority_eq_decide]

/-- Lines 4 to 10 of DECODE end as the statements say, line by line. -/
theorem parsePayload_endsAs (sizes : List Nat) (f : Byte) (L : Nat) (rd : Rd) :
    (parsePayload sizes f L rd).EndsAs rd (ending f L rd.avail) := by
  simp only [ending, padded_iff, priority_iff]
  -- Line 5, from the beginning of the stream.
  refine Parse.EndsAs.andThen_ite (.refl rd) (parsePadLength_endsAs (flagPadded f) L rd) .rfl nofun (fun _ => rfl)
    fun _ h5 => h5.andThen_ite (.refl rd) .rfl nofun (fun _ => rfl) fun _ h5 => ?_
  obtain ⟨⟨pad, rem⟩, rd1, h5⟩ := h5
  obtain ⟨hc1, hrem, -⟩ := parsePadLength_done h5
  have hleft1 := hc1.length_avail
  have henough1 := hc1.enough
  rw [← parsePadLength_done_pad h5, h5, Parse.done_andThen]
  generalize (if flagPadded f = true then 1 else 0) = a at *
  -- Line 6, `a` bytes later.
  refine Parse.EndsAs.andThen_ite hc1 (parsePriority_endsAs (flagPriority f) rem rd1) (and_congr_right fun _ => by omega)
    nofun (fun _ => rfl) fun _ h6 => h6.andThen_ite hc1 (and_congr_right fun _ => by omega)
    nofun (fun _ => rfl) fun _ h6 => h6.andThen_ite hc1 (and_congr_right fun _ => by omega)
    nofun (fun _ => rfl) fun _ h6 => ?_
  obtain ⟨⟨prio, rem2⟩, rd2, h6⟩ := h6
  obtain ⟨hc2, hrem2, -, -⟩ := parsePriority_done h6
  replace hc2 := hc1.trans hc2
  have hleft2 := hc2.length_avail
  have henough2 := hc2.enough
  rw [h6, Parse.done_andThen]
  generalize (if flagPriority f = true then 5 else 0) = q at *
  -- Lines 7 to 10, `a + q` bytes later.
  refine Parse.EndsAs.andThen_ite hc2 (parseBlocks_endsAs sizes pad rem2 rd2) (by omega) nofun (fun _ => rfl)
    fun _ h10 => h10.andThen_ite hc2 (by omega) nofun (fun _ => rfl)
    fun _ h10 => h10.andThen_ite hc2 (by omega) nofun (fun _ => ?_) fun _ h10 => ?_
  · rw [endingAfter]
    congr 1
    omega
  · obtain ⟨⟨blocks, hlen⟩, rd3, h10⟩ := h10
    rw [h10]
    exact ⟨_, _, rfl⟩

/-! ### The hold (40_decode R141) -/

/-- Settles O44: the bytes are missing to a read, and on an open stream that read holds the parse. -/
theorem anOpenShortStreamHoldsTheDecode : Obligations.AnOpenShortStreamHoldsTheDecode := by
  intro s f l i sub k hs ho hend
  have ⟨_, _, _, _, hl0, hl1, _⟩ := hs
  have hparse := parsePayload_endsAs (Config.sliceSizes s.draws) (low8 f) (low24 l).toNat s.rd
  rw [toNat_low24_of_inRange hl0 hl1, low8_eq_ofNat] at hparse
  rw [Rd.avail, hend] at hparse
  obtain ⟨rd, hc, hhold⟩ := hparse
  rw [Parse.missing, hc.closed, ho] at hhold
  rw [exec_decode_of_starts hs, decodeBody, toNat_low24_of_inRange hl0 hl1, low8_eq_ofNat, hhold]
  rfl

end Sys2Proof.Machine
end

section
/-! COMPLEN (41_length R150), and that the length it returns is the number of payload bytes ENCODE emits (R152). -/
namespace Sys2Proof.Machine
open Sys2Proof.Claims

/-! ### COMPLEN (41_length R150) -/

/-- A length of at most 16777215 fits the 24 bits of LEN (10_state R24). -/
theorem toNat_ofNat_len {n : Nat} (h : n ≤ lenMax) : (BitVec.ofNat 24 n).toNat = n :=
  Nat.mod_eq_of_lt (Nat.lt_succ_of_le h)

/-- Settles O34: the three checks in their order; where they pass, the length fits LEN. -/
theorem complenStoresTheExpectedLength : Obligations.ComplenStoresTheExpectedLength := by
  refine ⟨fun x y z blk => ?_, fun s hp => ?_, fun s hp hb => ?_, fun s h hp hb hh hl => ?_, fun s h hp hb hh hl => ?_⟩
  · exact everyCommandWordReadsAsTheOpcodeMapSays 0x21 x y z blk (by decide)
  · simp [exec, execComplen, State.ifFresh, hp, State.raise_eq_faulted]
  · simp [exec, execComplen, hp, hb, State.raise_eq_faulted]
  · simp [exec, execComplen, hp, hb, State.expLen_eq_expectedLength hh, hl, State.raise_eq_faulted]
  · exact ⟨_, toNat_ofNat_len hl, exec_complen_of_fits hp hb hh hl⟩

/-! ### Commands that only read -/

/-- The two states differ at most in the fault group, the phase and the response, all that a read can change (10_state R42). -/
def State.SameButStatus (s t : State) : Prop :=
  ∃ fsr fcause phase resp, t = { s with fsr := fsr, fcause := fcause, phase := phase, resp := resp }

theorem State.SameButStatus.refl (s : State) : s.SameButStatus s := ⟨_, _, _, _, rfl⟩

theorem State.SameButStatus.trans {s t u : State} (h1 : s.SameButStatus t) (h2 : t.SameButStatus u) :
    s.SameButStatus u := by
  obtain ⟨_, _, _, _, rfl⟩ := h1
  obtain ⟨fsr, fcause, phase, resp, rfl⟩ := h2
  exact ⟨fsr, fcause, phase, resp, rfl⟩

theorem isWire_of_onlyReads {i : Instr} (h : onlyReads i = true) : i.isWire = false := by
  cases i with
  | headersN | headersP | headersQ | headersPQ | priorityWord => cases h
  | _ => rfl

/-- A read answers or faults, and so changes the status alone. -/
theorem CommandEffect.sameButStatus_of_onlyReads {i : Instr} {s t : State} (he : CommandEffect i s t)
    (hi : onlyReads i = true) : s.SameButStatus t := by
  cases he with
  | badPhase | violation | read => exact ⟨_, _, _, _, rfl⟩
  | _ => cases hi

/-- Commands that ended with a next state did so one by one. -/
theorem execAll_cons_eq_next {i : Instr} {is : List Instr} {s u : State} (h : execAll (i :: is) s = .next u) :
    ∃ t, exec i s = .next t ∧ execAll is t = .next u := by
  rw [execAll] at h
  cases hi : exec i s with
  | next t => rw [hi] at h; exact ⟨t, rfl, h⟩
  | fault r => rw [hi] at h; cases h
  | refused r => rw [hi] at h; cases h

theorem execAll_sameButStatus {reads : List Instr} {s u : State} (hr : ∀ i ∈ reads, onlyReads i = true)
    (h : execAll reads s = .next u) : s.SameButStatus u := by
  induction reads generalizing s with
  | nil => cases h; exact .refl _
  | cons i is ih =>
    obtain ⟨hi, his⟩ := List.forall_mem_cons.1 hr
    obtain ⟨_, ht, hu⟩ := execAll_cons_eq_next h
    exact ((CommandEffect.of_exec (isWire_of_onlyReads hi) ht).sameButStatus_of_onlyReads hi).trans (ih his hu)

/-! ### The two outcomes of ENCODE (42_encode R160, R163) and the length of what it appends -/

/-- Lines 5 to 8 of ENCODE append as many bytes as the length formula says (30_encoding R116), in either pack mode. -/
theorem State.content_emitPayload_expLen {s : State} (hh : s.HeaderLengthInv)
    (hq : flagPriority s.flags = true → s.prio.isSome = true) (wr : Wr) :
    ∃ body, (s.emitPayload wr).content = wr.content ++ body ∧ body.length = s.expLen := by
  have hfragment : s.hlen.getD 0 = (concat (s.hblk.getD [])).length := by
    rw [hh]
    cases s.hblk <;> rfl
  refine ⟨_, s.content_emitPayload wr, ?_⟩
  rw [State.expLen, hfragment]
  cases hprio : flagPriority s.flags with
  | false =>
    cases flagPadded s.flags <;> simp
    omega
  | true =>
    obtain ⟨p, hp⟩ := Option.isSome_iff_exists.1 (hq hprio)
    cases flagPadded s.flags <;> simp [hp] <;> omega

/-- ENCODE faults and leaves the output, or it appends the header bytes and a body as long as the length formula says. -/
theorem exec_encode_cases {s t : State} (hh : s.HeaderLengthInv) (h : exec .encode s = .next t) :
    (t.resp = some (.ok .empty) ∧
      ∃ body, t.wr.content = s.wr.content ++ s.headerBytes ++ body ∧ body.length = s.expLen) ∨
    ∃ c, t.resp = some (.fault c) ∧ t.wr = s.wr := by
  cases CommandEffect.of_exec rfl h with
  | badPhase | violation => exact .inr ⟨_, rfl, rfl⟩
  | read _ _ hr => cases hr
  | encode _ _ hq =>
    obtain ⟨body, hbody, hlen⟩ := State.content_emitPayload_expLen hh hq (s.wr.memWrite s.headerBytes)
    exact .inl ⟨rfl, body, hbody.trans (congrArg (· ++ body) (Wr.content_memWrite _ _)), hlen⟩

/-- COMPLEN returned `n`: `n` is the length of the formula, and nothing else but LEN, LENSTALE and the response is written. -/
theorem exec_complen_length {s t : State} {n : Len} (h : exec .complen s = .next t)
    (hr : t.resp = some (.ok (.length n))) :
    n.toNat = s.expLen ∧ t = { s with len := n, lenstale := false, resp := some (.ok (.length n)) } := by
  cases CommandEffect.of_exec rfl h with
  | badPhase | violation => simp at hr
  | read _ _ hread => cases hread
  | complen _ _ hl =>
    cases hr
    exact ⟨toNat_ofNat_len hl, rfl⟩

/-- Settles O38: COMPLEN stores the length of the formula, the reads leave every register the formula and ENCODE read, and
what ENCODE appends after the header is as long as the formula says. -/
theorem computedLengthIsTheEmittedLength : Obligations.ComputedLengthIsTheEmittedLength := by
  intro s t u v n reads hh hcomplen hresp hreads hu hv
  obtain ⟨hn, rfl⟩ := exec_complen_length hcomplen hresp
  obtain ⟨fsr, fcause, phase, resp, rfl⟩ := execAll_sameButStatus hreads hu
  obtain ⟨hok, body, hbody, hlen⟩ | hfault := exec_encode_cases (by exact hh) hv
  · exact .inl ⟨hok, body, hbody, hlen.trans hn.symm⟩
  · exact .inr hfault

end Sys2Proof.Machine
end

section
/-! ENCODE (42_encode): what it appends as segments in wire order (R160, R162, R165), that it faults before the first byte or
appends the whole frame (R163), the number of bytes (R161), and what the pack mode changes (R164). -/
namespace Sys2Proof.Machine
open Sys2Proof.Claims

/-! ### The Byte Writer as appended segments (20_memory R69 to R74) -/

/-- OUT with the segments appended and their bytes counted (10_state R38). -/
def Wr.append (wr : Wr) (gs : List Seg) : Wr :=
  ⟨wr.segs ++ gs, wr.pos + (gs.map fun g => g.content.length).sum⟩

theorem Wr.append_append (wr : Wr) (gs hs : List Seg) : (wr.append gs).append hs = wr.append (gs ++ hs) := by
  simp [Wr.append, Nat.add_assoc]

theorem Wr.append_nil (wr : Wr) : wr.append [] = wr := by simp [Wr.append]

theorem Wr.append_ite (wr : Wr) (c : Prop) [Decidable c] (gs : List Seg) :
    (if c then wr.append gs else wr) = wr.append (if c then gs else []) := by
  split
  · rfl
  · exact wr.append_nil.symm

theorem Wr.content_append (wr : Wr) (gs : List Seg) :
    (wr.append gs).content = wr.content ++ (gs.map Seg.content).flatten := by
  simp [Wr.append, Wr.content]

theorem Wr.memWrite_eq_append (wr : Wr) (v : List Byte) : wr.memWrite v = wr.append (bytesSeg v) := by
  cases v with
  | nil => exact wr.append_nil.symm
  | cons b bs => rfl

theorem Wr.putSlices_eq_append (wr : Wr) (blocks : List Slice) : wr.putSlices blocks = wr.append (blocks.map .ref) := by
  induction blocks generalizing wr with
  | nil => exact wr.append_nil.symm
  | cons s ss ih =>
    calc wr.putSlices (s :: ss)
      _ = (wr.append [.ref s]).putSlices ss := rfl
      _ = wr.append ((s :: ss).map .ref) := by rw [ih, Wr.append_append]; rfl

theorem toNat_pack (m : PackMode) (e : Bool) (d : Sdep) : (pack m e d).toNat = packNat m e d.toNat := by
  cases m with
  | or => exact toNat_packOr_eq_packNat e d
  | shiftCompat =>
    cases e with
    | false => exact (BitVec.toNat_setWidth 32 d).trans (Nat.mod_eq_of_lt (d.isLt.trans (by decide)))
    | true => exact toNat_pack_shiftCompat_true d

theorem Wr.putPriority_eq_append (wr : Wr) (m : PackMode) (p : Option Prio) :
    wr.putPriority m p = wr.append (prioritySegs m p) := by
  cases p with
  | none => exact wr.append_nil.symm
  | some p =>
    rw [Wr.putPriority, Wr.putU32BE, Wr.putU8, beBytes_eq_wordBytes, toNat_pack, Wr.memWrite_eq_append,
      Wr.memWrite_eq_append, Wr.append_append]
    rfl

/-- Lines 4 to 8 of ENCODE append the segments of the frame in wire order; no header block counts as an empty one (log 25). -/
theorem State.emitPayload_eq_append (s : State) :
    s.emitPayload (s.wr.memWrite s.headerBytes) = s.wr.append (encodedSegs s (s.hblk.getD [])) := by
  simp only [State.emitPayload, Wr.putU8, Wr.putZeros, Wr.memWrite_eq_append, Wr.putPriority_eq_append,
    Wr.putSlices_eq_append, Wr.append_ite, ← padded_iff, ← priority_iff]
  simp [Wr.append_append, encodedSegs, State.headerBytes, State.typeTag]

/-! ### The outcome of ENCODE (42_encode R160) -/

/-- The first of the checks of lines 1 to 3 that fails. -/
def State.encodeViolation (s : State) : Option ContractSub :=
  if s.phase ≠ .fresh then some .badPhase
  else if s.lenstale = true then some .lenStale
  else if Priority s.flags ∧ s.prio = none then some .unsetField
  else none

/-- The state after lines 4 to 9. -/
def State.encoded (s : State) : State :=
  { s with wr := s.wr.append (encodedSegs s (s.hblk.getD [])), phase := .serialized, resp := some (.ok .empty) }

theorem State.encodeViolation_eq_none_iff (s : State) :
    s.encodeViolation = none ↔ s.phase = .fresh ∧ s.lenstale = false ∧ (Priority s.flags → s.prio ≠ none) := by
  unfold State.encodeViolation
  split_ifs <;> simp_all

theorem exec_encode_of_violation {s : State} {v : ContractSub} (h : s.encodeViolation = some v) :
    exec .encode s = .next (violation s v) := by
  unfold State.encodeViolation at h
  split_ifs at h with hp hl hq <;> cases h
  · simp [exec, execEncode, State.ifFresh, hp, State.raise_eq_faulted]
  · simp [exec, execEncode, not_not.1 hp, hl, State.raise_eq_faulted]
  · simp [exec, execEncode, not_not.1 hp, hl, hq.2, (priority_iff _).1 hq.1, State.raise_eq_faulted]

theorem exec_encode_of_no_violation {s : State} (h : s.encodeViolation = none) : exec .encode s = .next s.encoded := by
  obtain ⟨hp, hl, hq⟩ := s.encodeViolation_eq_none_iff.1 h
  rw [exec_encode_of_ready hp hl hq, State.emitPayload_eq_append]
  rfl

/-- An ENCODE that answered OK passed its checks. -/
theorem encodeViolation_eq_none_of_ok {s t : State} (h : exec .encode s = .next t) (hr : t.resp = some (.ok .empty)) :
    s.encodeViolation = none := by
  cases hv : s.encodeViolation with
  | none => rfl
  | some v =>
    cases (exec_encode_of_violation hv).symm.trans h
    cases hr

/-- Settles O35: the first failing check decides the fault; where none fails, the segments of the frame are appended. -/
theorem encodeAppendsTheFrameInWireOrder : Obligations.EncodeAppendsTheFrameInWireOrder := by
  refine ⟨fun x y z blk => ?_, fun s hp => ?_, fun s hp hl => ?_, fun s hp hl hq hn => ?_, fun s b hp hl hb hq => ?_⟩
  · exact everyCommandWordReadsAsTheOpcodeMapSays 0x22 x y z blk (by decide)
  · exact exec_encode_of_violation (by simp [State.encodeViolation, hp])
  · exact exec_encode_of_violation (by simp [State.encodeViolation, hp, hl])
  · exact exec_encode_of_violation (by simp [State.encodeViolation, hp, hl, hq, hn])
  · rw [exec_encode_of_no_violation (s.encodeViolation_eq_none_iff.2 ⟨hp, hl, hq⟩), State.encoded, hb]
    rfl

/-! ### All or nothing, and how much (42_encode R161, R163) -/

/-- With an up-to-date length the frame has a header block, and LEN is the length of the formula (10_state R31). -/
theorem State.Inv.hblk_len_of_no_encodeViolation {s : State} (hs : s.Inv) (h : s.encodeViolation = none) :
    s.hblk.isSome = true ∧ s.len.toNat = s.expLen := by
  obtain ⟨hp, hl, -⟩ := s.encodeViolation_eq_none_iff.1 h
  obtain ⟨-, hlength⟩ := hs.length
  exact hlength (by simp [hp]) hl

/-- Settles O36: a failing check faults before the first byte; INV-LEN gives the frame that passes them its header block. -/
theorem encodeIsAllOrNothing : Obligations.EncodeIsAllOrNothing := by
  intro s hs
  cases hv : s.encodeViolation with
  | some v => exact ⟨_, exec_encode_of_violation hv, .inl ⟨_, rfl, rfl⟩⟩
  | none =>
    obtain ⟨hsome, -⟩ := hs.hblk_len_of_no_encodeViolation hv
    obtain ⟨b, hb⟩ := Option.isSome_iff_exists.1 hsome
    exact ⟨_, exec_encode_of_no_violation hv, .inr ⟨rfl, b, hb, by rw [State.encoded, hb]; rfl⟩⟩

/-- Settles O37: the body is as long as the length formula says, which is LEN by INV-LEN, and every byte is counted. -/
theorem encodeEmitsExactlyTheDeclaredLength : Obligations.EncodeEmitsExactlyTheDeclaredLength := by
  intro s t hs h hr
  have hv := encodeViolation_eq_none_of_ok h hr
  obtain ⟨-, hlen⟩ := hs.hblk_len_of_no_encodeViolation hv
  obtain ⟨-, body, hbody, hbodyLen⟩ | ⟨c, hc, -⟩ := exec_encode_cases hs.headerLength h
  · obtain ⟨-, hpos⟩ := commandsOnlyAppendToTheOutput _ _ _ h
    rw [hbody, List.length_append, List.length_append, hbodyLen, ← hlen] at hpos
    refine ⟨body, hbody, hbodyLen.trans hlen.symm, ?_⟩
    change t.wr.pos = s.wr.pos + s.headerBytes.length + s.len.toNat
    omega
  · cases hc.symm.trans hr

/-! ### The pack mode (42_encode R164) -/

theorem map_length_prioritySegs (m n : PackMode) (p : Option Prio) :
    (prioritySegs m p).map (fun g => g.content.length) = (prioritySegs n p).map fun g => g.content.length := by
  cases p <;> rfl

/-- The priority word of an unset EXCL bit is the dependency in either mode (30_encoding R110, R111). -/
theorem prioritySegs_of_excl_false {p : Option Prio} (m n : PackMode) (h : ∀ q, p = some q → q.excl = false) :
    prioritySegs m p = prioritySegs n p := by
  cases p with
  | none => rfl
  | some q => simp [prioritySegs, packNat, h q rfl]

theorem State.encoded_pos_of_packMode (s : State) (m : PackMode) :
    ({ s with packMode := m } : State).encoded.wr.pos = s.encoded.wr.pos := by
  simp only [State.encoded, Wr.append, encodedSegs]
  by_cases hq : Priority s.flags
  · simp [hq, map_length_prioritySegs m s.packMode]
  · simp [hq]

theorem State.encoded_wr_of_packMode {s : State} (m : PackMode)
    (h : ¬ Priority s.flags ∨ ∀ p, s.prio = some p → p.excl = false) :
    ({ s with packMode := m } : State).encoded.wr = s.encoded.wr := by
  simp only [State.encoded, encodedSegs]
  obtain hq | hexcl := h
  · simp [hq]
  · rw [prioritySegs_of_excl_false m s.packMode hexcl]

theorem content_bytesSeg (l : List Byte) : ((bytesSeg l).map Seg.content).flatten = l := by
  cases l <;> simp [bytesSeg, Seg.content]

/-- With PRIORITY set, the four bytes of the packed word stand after the frame header and the Pad Length; what follows them
is the same in every mode. -/
theorem State.content_encoded_of_packMode {s : State} {p : Prio} (hq : Priority s.flags) (hp : s.prio = some p) :
    ∃ post, ∀ m, ({ s with packMode := m } : State).encoded.wr.content =
      s.wr.content ++ Config.frameHeader 1#8 s.flags s.len s.sid ++ (if Padded s.flags then [s.pad] else []) ++
        wordBytes (packNat m p.excl p.sdep.toNat) ++ post := by
  refine ⟨p.weight :: (concat (s.hblk.getD []) ++ if Padded s.flags then List.replicate s.pad.toNat 0x00#8 else []),
    fun m => ?_⟩
  rw [State.encoded, Wr.content_append]
  by_cases hpad : Padded s.flags <;>
    simp [encodedSegs, prioritySegs, content_bytesSeg, hq, hp, hpad, Seg.content, concat, Function.comp_def]

/-- Settles O39: the checks do not read the mode; of the segments appended only that of the priority word does. -/
theorem packModeChangesOnlyThePriorityWord : Obligations.PackModeChangesOnlyThePriorityWord := by
  intro s m
  cases hv : s.encodeViolation with
  | some v =>
    exact ⟨_, _, exec_encode_of_violation hv, exec_encode_of_violation (s := { s with packMode := m }) hv, rfl, rfl,
      nofun, fun _ => rfl⟩
  | none =>
    refine ⟨_, _, exec_encode_of_no_violation hv, exec_encode_of_no_violation (s := { s with packMode := m }) hv, rfl,
      s.encoded_pos_of_packMode m, fun p _ hq hp => ?_, fun h => s.encoded_wr_of_packMode m ?_⟩
    · obtain ⟨post, hpost⟩ := State.content_encoded_of_packMode hq hp
      exact ⟨post, hpost s.packMode, hpost m⟩
    · exact h.resolve_left fun hr => hr rfl

end Sys2Proof.Machine
end

section
/-! The flag queries (43_flag_queries): the three predicates as masks of FLAGS behind the one phase check, and FLAGNAME as a
function of its operand. -/
namespace Sys2Proof.Machine
open Sys2Proof.Claims

/-! ### ENDHDRS, ISPADDED, HASPRIO (43_flag_queries R171 to R173) -/

theorem flagEndHeaders_eq_decide (f : Byte) : flagEndHeaders f = decide (EndHeaders f) :=
  getLsbD_eq_decide_and_twoPow f (by decide)

/-- A command that only needs a readable frame faults in FAULTED, whatever it would do elsewhere (10_state R34). -/
@[simp] theorem State.ifReadable_of_faulted {s body : State} (h : s.phase = .faulted) :
    s.ifReadable body = violation s .badPhase := by
  rw [State.ifReadable, if_pos h, State.raise_eq_faulted]

theorem exec_endhdrs (s : State) :
    exec .endhdrs s = .next (s.ifReadable (answered s (.boolean (decide (EndHeaders s.flags))))) := by
  rw [← flagEndHeaders_eq_decide]
  rfl

theorem exec_ispadded (s : State) :
    exec .ispadded s = .next (s.ifReadable (answered s (.boolean (decide (Padded s.flags))))) := by
  rw [← flagPadded_eq_decide]
  rfl

theorem exec_hasprio (s : State) :
    exec .hasprio s = .next (s.ifReadable (answered s (.boolean (decide (Priority s.flags))))) := by
  rw [← flagPriority_eq_decide]
  rfl

/-- Settles O32: each predicate is the mask of its bit behind the phase check, which decides between the fault and the answer. -/
theorem flagPredicatesTestTheirBit : Obligations.FlagPredicatesTestTheirBit := by
  refine ⟨fun x y z blk => ⟨?_, ?_, ?_⟩, fun s hp => ?_, fun s hp => ?_⟩
  · exact everyCommandWordReadsAsTheOpcodeMapSays 0x1A x y z blk (by decide)
  · exact everyCommandWordReadsAsTheOpcodeMapSays 0x18 x y z blk (by decide)
  · exact everyCommandWordReadsAsTheOpcodeMapSays 0x19 x y z blk (by decide)
  · rw [exec_endhdrs, exec_ispadded, exec_hasprio]
    simp only [State.ifReadable_of_faulted hp, and_self]
  · rw [exec_endhdrs, exec_ispadded, exec_hasprio]
    simp only [State.ifReadable_of_ne hp, and_self]

/-! ### FLAGNAME (43_flag_queries R170) -/

theorem exec_flagname (b : Word) (s : State) : exec (.flagname b) s = .next (answered s (.name (flagName b))) := rfl

/-- What is none of the frame's own three names is answered by the base. -/
theorem flagName_eq_base {b : Word} (h1 : b ≠ 0x01#32) (h8 : b ≠ 0x08#32) (h20 : b ≠ 0x20#32) :
    flagName b = .base (baseFlagName b) := by
  rw [flagName, if_neg h1, if_neg h8, if_neg h20]

theorem flagName_endHeaders : flagName 0x04#32 = .base .endHeaders := by
  rw [flagName_eq_base (by decide) (by decide) (by decide), baseFlagName, if_pos rfl]

/-- Settles O33: FLAGNAME answers with the lookup of its operand, and the lookup does not read the state. -/
theorem flagnameNamesTheFourFlags : Obligations.FlagnameNamesTheFourFlags := by
  refine ⟨fun b y z blk => ?_, fun s => ⟨rfl, rfl, rfl, ?_⟩, ⟨rfl, rfl, rfl, rfl⟩, fun b h1 h8 h20 => ?_⟩
  · exact everyCommandWordReadsAsTheOpcodeMapSays 0x1B b y z blk (by decide)
  · rw [exec_flagname, flagName_endHeaders]
  · exact ⟨baseFlagName b, fun s => by rw [exec_flagname, flagName_eq_base h1 h8 h20]⟩

end Sys2Proof.Machine
end

section
/-! The frame fields (44_frame_fields): what NEW and the setters write behind the phase check and the range checks, and what
the getters and the status read answer. -/
namespace Sys2Proof.Machine
open Sys2Proof.Claims

/-! ### NEW and the setters (44_frame_fields R180 to R185) -/

/-- A command that needs a fresh frame faults in every other phase, whatever it would do in FRESH (10_state R34). -/
@[simp] theorem State.ifFresh_of_ne {s body : State} (h : s.phase ≠ .fresh) : s.ifFresh body = violation s .badPhase := by
  rw [State.ifFresh, if_neg h, State.raise_eq_faulted]

theorem not_inRange_iff {hi : Nat} {a : Word} : ¬ inRange hi a = true ↔ a.toInt < 0 ∨ hi < a.toInt := by
  rw [inRange_iff]
  omega

theorem exec_setflags (f : Word) (s : State) :
    exec (.setflags f) s = .next (s.ifFresh (if flagsInRange f then
      { s with flags := BitVec.ofNat 8 f.toNat, lenstale := true, resp := some (.ok .empty) }
      else violation s .range)) := by
  rw [← low8_eq_ofNat, violation, ← State.raise_eq_faulted]
  rfl

theorem exec_setsid (i : Word) (s : State) :
    exec (.setsid i) s = .next (s.ifFresh (if sidInRange i then
      { s with sid := BitVec.ofNat 31 i.toNat, resp := some (.ok .empty) }
      else violation s .range)) := by
  rw [← low31_eq_ofNat, violation, ← State.raise_eq_faulted]
  rfl

theorem exec_setpad (n : Word) (s : State) :
    exec (.setpad n) s = .next (s.ifFresh (if padInRange n then
      { s with pad := BitVec.ofNat 8 n.toNat, lenstale := true, resp := some (.ok .empty) }
      else violation s .range)) := by
  rw [← low8_eq_ofNat, violation, ← State.raise_eq_faulted]
  rfl

theorem exec_setprio (d e g : Word) (s : State) :
    exec (.setprio d e g) s = .next (s.ifFresh (if sdepInRange d && exclInRange e && weightInRange g then
      { s with prio := some (prioOfOperands (d, e, g)), lenstale := true, resp := some (.ok .empty) }
      else violation s .range)) := by
  rw [violation, ← State.raise_eq_faulted]
  rfl

/-- With the exclusive operand in its range, the group holds the three operands as numbers (10_state R27). -/
theorem prioOfOperands_eq_ofNat {d e g : Word} (h0 : 0 ≤ e.toInt) (h1 : e.toInt ≤ 1) :
    prioOfOperands (d, e, g) = ⟨e.toNat == 1, BitVec.ofNat 31 d.toNat, BitVec.ofNat 8 g.toNat⟩ := by
  rw [prioOfOperands, low1_eq_beq_one h0 h1, low31_eq_ofNat, low8_eq_ofNat]

/-- SETBLOCKS has no range check: behind the phase check it writes any list. -/
theorem exec_setblocks (b : List Slice) (s : State) :
    exec (.setblocks b) s = .next (s.ifFresh
      { s with hblk := some b, hlen := some (b.map List.length).sum, lenstale := true, resp := some (.ok .empty) }) := by
  rw [← size_eq_sum_lengths]
  rfl

/-- Settles O21: NEW looks at no register but the counter it draws SID from. -/
theorem newConstructsAFreshFrame : Obligations.NewConstructsAFreshFrame :=
  ⟨fun x y z blk => everyCommandWordReadsAsTheOpcodeMapSays 0x00 x y z blk (by decide), fun _ => ⟨_, _, rfl⟩⟩

/-- Settles O22: the phase check, then the range check. -/
theorem setflagsWritesTheWholeFlagsByte : Obligations.SetflagsWritesTheWholeFlagsByte := by
  refine ⟨fun f x y blk => ?_, fun f s hp => ?_, fun f s hp hr => ?_, fun f s hp h0 h1 => ?_⟩
  · exact everyCommandWordReadsAsTheOpcodeMapSays 0x01 f x y blk (by decide)
  · rw [exec_setflags, State.ifFresh_of_ne hp]
  · have hout : ¬ flagsInRange f = true := not_inRange_iff.2 hr
    rw [exec_setflags, State.ifFresh_of_fresh hp, if_neg hout]
  · have hin : flagsInRange f = true := inRange_iff.2 ⟨h0, h1⟩
    rw [exec_setflags, State.ifFresh_of_fresh hp, if_pos hin]

/-- Settles O23: the phase check, then the range check, which only a negative operand fails. -/
theorem setsidWritesTheStreamIdentifier : Obligations.SetsidWritesTheStreamIdentifier := by
  refine ⟨fun i x y blk => ?_, fun i s hp => ?_, fun i s hp hr => ?_, fun i s hp h0 => ?_⟩
  · exact everyCommandWordReadsAsTheOpcodeMapSays 0x02 i x y blk (by decide)
  · rw [exec_setsid, State.ifFresh_of_ne hp]
  · have hout : ¬ sidInRange i = true := not_inRange_iff.2 (.inl hr)
    rw [exec_setsid, State.ifFresh_of_fresh hp, if_neg hout]
  · rw [exec_setsid, State.ifFresh_of_fresh hp, if_pos (sidInRange_of_nonneg h0)]

/-- Settles O24: the phase check, then the range check. -/
theorem setpadWritesThePadLength : Obligations.SetpadWritesThePadLength := by
  refine ⟨fun n x y blk => ?_, fun n s hp => ?_, fun n s hp hr => ?_, fun n s hp h0 h1 => ?_⟩
  · exact everyCommandWordReadsAsTheOpcodeMapSays 0x03 n x y blk (by decide)
  · rw [exec_setpad, State.ifFresh_of_ne hp]
  · have hout : ¬ padInRange n = true := not_inRange_iff.2 hr
    rw [exec_setpad, State.ifFresh_of_fresh hp, if_neg hout]
  · have hin : padInRange n = true := inRange_iff.2 ⟨h0, h1⟩
    rw [exec_setpad, State.ifFresh_of_fresh hp, if_pos hin]

/-- The three range checks of SETPRIO together; a word is never above the largest stream dependency (44_frame_fields R184). -/
theorem setprio_inRange_iff {d e g : Word} : (sdepInRange d && exclInRange e && weightInRange g) = true ↔
    0 ≤ d.toInt ∧ 0 ≤ e.toInt ∧ e.toInt ≤ 1 ∧ 0 ≤ g.toInt ∧ g.toInt ≤ 255 := by
  have hd : sdepInRange d = true ↔ 0 ≤ d.toInt := ⟨fun h => (inRange_iff.1 h).1, sidInRange_of_nonneg⟩
  have he : exclInRange e = true ↔ 0 ≤ e.toInt ∧ e.toInt ≤ 1 := inRange_iff
  have hg : weightInRange g = true ↔ 0 ≤ g.toInt ∧ g.toInt ≤ 255 := inRange_iff
  rw [Bool.and_eq_true, Bool.and_eq_true, hd, he, hg]
  simp only [and_assoc]

/-- Settles O25: the phase check, then the three range checks as one, then the one write of the group. -/
theorem setprioWritesThePriorityGroup : Obligations.SetprioWritesThePriorityGroup := by
  refine ⟨fun d e g blk => ?_, fun d e g s hp => ?_, fun d e g s hp hr => ?_, fun d e g s hp hd he0 he1 hg0 hg1 => ?_⟩
  · exact everyCommandWordReadsAsTheOpcodeMapSays 0x04 d e g blk (by decide)
  · rw [exec_setprio, State.ifFresh_of_ne hp]
  · rw [exec_setprio, State.ifFresh_of_fresh hp, if_neg (by rw [setprio_inRange_iff]; omega)]
  · rw [exec_setprio, State.ifFresh_of_fresh hp, if_pos (setprio_inRange_iff.2 ⟨hd, he0, he1, hg0, hg1⟩),
      prioOfOperands_eq_ofNat he0 he1]

/-- Settles O26: the phase check alone decides between the fault and the write. -/
theorem setblocksWritesBlocksAndTheirSize : Obligations.SetblocksWritesBlocksAndTheirSize := by
  refine ⟨fun x y z blk => ?_, fun b s hp => ?_, fun b s hp => ?_⟩
  · exact everyCommandWordReadsAsTheOpcodeMapSays 0x05 x y z blk (by decide)
  · rw [exec_setblocks, State.ifFresh_of_ne hp]
  · rw [exec_setblocks, State.ifFresh_of_fresh hp]

/-! ### The getters and the status read (44_frame_fields R186 to R194) -/

theorem exec_gettype (s : State) : exec .gettype s = .next (s.ifReadable (answered s (.typeTag 1#8))) := rfl

theorem exec_getflags (s : State) : exec .getflags s = .next (s.ifReadable (answered s (.flags s.flags))) := rfl

theorem exec_getlen (s : State) : exec .getlen s = .next (s.ifReadable (answered s (.lenAndStale s.len s.lenstale))) := rfl

theorem exec_getsid (s : State) : exec .getsid s = .next (s.ifReadable (answered s (.sid s.sid))) := rfl

theorem exec_getpad (s : State) :
    exec .getpad s = .next (s.ifReadable (answered s (.pad (if Padded s.flags then s.pad else 0#8)))) := by
  rw [← State.effPad_eq]
  rfl

/-- The answer of a getter whose register may hold no value: the value as `v` wraps it, or UNSET_FIELD. -/
def State.answerOrUnset {α : Type} (s : State) (r : Option α) (v : α → Value) : State :=
  match r with
  | none => violation s .unsetField
  | some a => answered s (v a)

theorem State.answerOrUnset_none {α : Type} (s : State) (v : α → Value) :
    s.answerOrUnset none v = violation s .unsetField := rfl

theorem State.answerOrUnset_some {α : Type} (s : State) (a : α) (v : α → Value) :
    s.answerOrUnset (some a) v = answered s (v a) := rfl

theorem exec_getprio (s : State) :
    exec .getprio s = .next (s.ifReadable (if Priority s.flags then s.answerOrUnset s.prio (.prio ∘ some)
      else answered s (.prio none))) := by
  simp only [exec, execGetprio, flagPriority_eq_decide, decide_eq_true_eq, State.raise_eq_faulted]
  cases s.prio <;> rfl

theorem exec_gethlen (s : State) :
    exec .gethlen s = .next (s.ifReadable (s.answerOrUnset s.hlen .headerLength)) := by
  simp only [exec, execGethlen, State.raise_eq_faulted]
  cases s.hlen <;> rfl

theorem exec_getblocks (s : State) :
    exec .getblocks s = .next (s.ifReadable (s.answerOrUnset s.hblk .blocks)) := by
  simp only [exec, execGetblocks, State.raise_eq_faulted]
  cases s.hblk <;> rfl

/-- Settles O27: the phase check decides between the fault and the answer. -/
theorem plainGettersReturnTheirRegister : Obligations.PlainGettersReturnTheirRegister := by
  refine ⟨fun x y z blk => ⟨?_, ?_, ?_, ?_⟩, fun s hp => ?_, fun s hp => ?_⟩
  · exact everyCommandWordReadsAsTheOpcodeMapSays 0x10 x y z blk (by decide)
  · exact everyCommandWordReadsAsTheOpcodeMapSays 0x11 x y z blk (by decide)
  · exact everyCommandWordReadsAsTheOpcodeMapSays 0x12 x y z blk (by decide)
  · exact everyCommandWordReadsAsTheOpcodeMapSays 0x13 x y z blk (by decide)
  · rw [exec_gettype, exec_getflags, exec_getlen, exec_getsid]
    simp only [State.ifReadable_of_faulted hp, and_self]
  · rw [exec_gettype, exec_getflags, exec_getlen, exec_getsid]
    simp only [State.ifReadable_of_ne hp, and_self]

/-- Settles O28: behind the phase check PADDED chooses between the register and 0. -/
theorem getpadReturnsTheEffectivePadLength : Obligations.GetpadReturnsTheEffectivePadLength := by
  refine ⟨fun x y z blk => ?_, fun s hp => ?_, fun s hp hf => ?_, fun s hp hf => ?_⟩
  · exact everyCommandWordReadsAsTheOpcodeMapSays 0x14 x y z blk (by decide)
  · rw [exec_getpad, State.ifReadable_of_faulted hp]
  · rw [exec_getpad, State.ifReadable_of_ne hp, if_pos hf]
  · rw [exec_getpad, State.ifReadable_of_ne hp, if_neg hf]

/-- Settles O29: behind the phase check PRIORITY chooses between none and the group, which may hold no value. -/
theorem getprioReturnsTheEffectivePriority : Obligations.GetprioReturnsTheEffectivePriority := by
  refine ⟨fun x y z blk => ?_, fun s hp => ?_, fun s hp hf => ?_, fun s hp hf hq => ?_, fun s p hp hf hq => ?_⟩
  · exact everyCommandWordReadsAsTheOpcodeMapSays 0x15 x y z blk (by decide)
  · rw [exec_getprio, State.ifReadable_of_faulted hp]
  · rw [exec_getprio, State.ifReadable_of_ne hp, if_neg hf]
  · rw [exec_getprio, State.ifReadable_of_ne hp, if_pos hf, hq, State.answerOrUnset_none]
  · rw [exec_getprio, State.ifReadable_of_ne hp, if_pos hf, hq, State.answerOrUnset_some, Function.comp_apply]

/-- Settles O30: behind the phase check the register holds a value or it does not. -/
theorem gethlenAndGetblocksReturnTheHeaderBlock : Obligations.GethlenAndGetblocksReturnTheHeaderBlock := by
  refine ⟨fun x y z blk => ⟨?_, ?_⟩, fun s hp => ⟨?_, ?_⟩, fun s hp hn => ?_, fun s n hp hn => ?_, fun s hp hb => ?_,
    fun s b hp hb => ?_⟩
  · exact everyCommandWordReadsAsTheOpcodeMapSays 0x16 x y z blk (by decide)
  · exact everyCommandWordReadsAsTheOpcodeMapSays 0x17 x y z blk (by decide)
  · rw [exec_gethlen, State.ifReadable_of_faulted hp]
  · rw [exec_getblocks, State.ifReadable_of_faulted hp]
  · rw [exec_gethlen, State.ifReadable_of_ne hp, hn, State.answerOrUnset_none]
  · rw [exec_gethlen, State.ifReadable_of_ne hp, hn, State.answerOrUnset_some]
  · rw [exec_getblocks, State.ifReadable_of_ne hp, hb, State.answerOrUnset_none]
  · rw [exec_getblocks, State.ifReadable_of_ne hp, hb, State.answerOrUnset_some]

/-- Settles O31: GETSTATUS has no phase check. -/
theorem getstatusReturnsTheStatusGroup : Obligations.GetstatusReturnsTheStatusGroup :=
  ⟨fun x y z blk => everyCommandWordReadsAsTheOpcodeMapSays 0x1C x y z blk (by decide), fun _ => rfl⟩

end Sys2Proof.Machine
end

section
/-! Faults of the commands (60_exceptions): which fault each command may raise (R238), what a ContractViolation changes
(R225), how DECODE ends where its lines come first to a length too small or to a read of a closed stream (R221, R223), and
when a hold ends (R232). -/
namespace Sys2Proof.Machine
open Sys2Proof.Claims

/-! ### The fault matrix (60_exceptions R238) -/

/-- The outcome in `t`, if it is a fault, is one of those that `P` allows. -/
def State.FaultsOnly (P : Cause → Prop) (t : State) : Prop := ∀ c, t.resp = some (.fault c) → P c

theorem State.faultsOnly_raise (s : State) {P : Cause → Prop} {c : Cause} (h : P c) : (s.raise c).FaultsOnly P := by
  intro c' hc'
  cases hc'
  exact h

theorem State.faultsOnly_respond (s : State) (P : Cause → Prop) (v : Value) : (s.respond v).FaultsOnly P := nofun

theorem State.FaultsOnly.ite {P : Cause → Prop} {c : Prop} [Decidable c] {t u : State} (ht : t.FaultsOnly P)
    (hu : u.FaultsOnly P) : (if c then t else u).FaultsOnly P := by
  split
  · exact ht
  · exact hu

theorem State.FaultsOnly.ifFresh {P : Cause → Prop} {s body : State} (hp : P (.contractViolation .badPhase))
    (hb : body.FaultsOnly P) : (s.ifFresh body).FaultsOnly P :=
  .ite hb (s.faultsOnly_raise hp)

theorem State.FaultsOnly.ifReadable {P : Cause → Prop} {s body : State} (hp : P (.contractViolation .badPhase))
    (hb : body.FaultsOnly P) : (s.ifReadable body).FaultsOnly P :=
  .ite (s.faultsOnly_raise hp) hb

theorem State.faultsOnly_answerOrUnset {α : Type} (s : State) {P : Cause → Prop}
    (h : P (.contractViolation .unsetField)) (r : Option α) (v : α → Value) : (s.answerOrUnset r v).FaultsOnly P := by
  cases r with
  | none => exact s.faultsOnly_raise h
  | some a => exact s.faultsOnly_respond P (v a)

/-- Lines 4 to 11 of DECODE fault by the stream only. -/
theorem faultsOnly_decodeBody (f l i : Word) (s : State) : (decodeBody f l i s).FaultsOnly (mayRaise (.decode f l i)) := by
  unfold decodeBody
  split
  · exact nofun
  · next c rd hparse =>
    obtain ⟨hstream, -⟩ := parsePayload_fault_consumed hparse
    intro c' hc'
    cases hc'
    cases c with
    | truncatedInput sub => exact .inr (.inr (.inr (.inl ⟨sub, rfl⟩)))
    | malformedFrame sub => exact .inr (.inr (.inr (.inr ⟨sub, rfl⟩)))
    | contractViolation v => exact absurd rfl (hstream v)
  · exact State.faultsOnly_respond _ _ _

/-- The next state of every command, check by check, against its row of the matrix. -/
theorem exec_faultsOnly {i : Instr} (hi : Command i) (s : State) :
    ∃ t, exec i s = .next t ∧ t.FaultsOnly (mayRaise i) := by
  cases i with
  | headersN | headersP | headersQ | headersPQ | priorityWord | flagsByte => exact absurd rfl hi
  | new | flagname | getstatus => exact ⟨_, rfl, State.faultsOnly_respond _ _ _⟩
  | setflags | setsid | setpad | setprio =>
    exact ⟨_, rfl, .ifFresh (.inl rfl) (.ite (State.faultsOnly_respond _ _ _) (s.faultsOnly_raise (.inr rfl)))⟩
  | setblocks => exact ⟨_, rfl, .ifFresh rfl (State.faultsOnly_respond _ _ _)⟩
  | gettype | getflags | getlen | getsid | getpad | ispadded | hasprio | endhdrs =>
    exact ⟨_, rfl, .ifReadable rfl (State.faultsOnly_respond _ _ _)⟩
  | getprio =>
    exact ⟨_, exec_getprio s, .ifReadable (.inl rfl)
      (.ite (s.faultsOnly_answerOrUnset (.inr rfl) _ _) (State.faultsOnly_respond _ _ _))⟩
  | gethlen => exact ⟨_, exec_gethlen s, .ifReadable (.inl rfl) (s.faultsOnly_answerOrUnset (.inr rfl) _ _)⟩
  | getblocks => exact ⟨_, exec_getblocks s, .ifReadable (.inl rfl) (s.faultsOnly_answerOrUnset (.inr rfl) _ _)⟩
  | complen =>
    exact ⟨_, rfl, .ifFresh (.inl rfl) (.ite (s.faultsOnly_raise (.inr (.inl rfl)))
      (.ite (s.faultsOnly_raise (.inr (.inr rfl))) (State.faultsOnly_respond _ _ _)))⟩
  | encode =>
    exact ⟨_, rfl, .ifFresh (.inl rfl) (.ite (s.faultsOnly_raise (.inr (.inr rfl)))
      (.ite (s.faultsOnly_raise (.inr (.inl rfl))) (State.faultsOnly_respond _ _ _)))⟩
  | decode f l x =>
    exact ⟨_, rfl, .ifFresh (.inl rfl) (.ite (s.faultsOnly_raise (.inr (.inr (.inl rfl))))
      (.ite (faultsOnly_decodeBody f l x s) (s.faultsOnly_raise (.inr (.inl rfl)))))⟩

/-- Settles O14: a command has one next state, whose fault is in the row of the matrix. -/
theorem commandsRaiseOnlyTheFaultsOfTheMatrix : Obligations.CommandsRaiseOnlyTheFaultsOfTheMatrix := by
  intro i s t c hi h hc
  obtain ⟨t', ht', hfaults⟩ := exec_faultsOnly hi s
  cases ht'.symm.trans h
  exact hfaults c hc

/-! ### ContractViolation (60_exceptions R225) -/

/-- Settles O15: of the effects only the two failed checks end in a ContractViolation, and both are the fault entry alone. -/
theorem contractViolationChangesOnlyWhatTheEntryLists : Obligations.ContractViolationChangesOnlyWhatTheEntryLists := by
  intro i s t v hi h hv
  cases CommandEffect.of_exec (isWire_of_command hi) h with
  | badPhase | violation =>
    cases hv
    exact s.raise_eq_faulted _
  | decodeFault _ hparse =>
    obtain ⟨hstream, -⟩ := parsePayload_fault_consumed hparse
    cases hv
    exact absurd rfl (hstream v)
  | _ => cases hv

/-! ### Faults of the stream (60_exceptions R221, R223, 40_decode R145) -/

/-- Lines 4 to 10 of a DECODE that passed lines 1 to 3 end as the lines say for its operands as numbers. -/
theorem parsePayload_endsAs_of_starts {s : State} {f l i : Word} (h : DecodeStarts s f l i) :
    (parsePayload (Config.sliceSizes s.draws) (low8 f) (low24 l).toNat s.rd).EndsAs s.rd
      (ending (BitVec.ofNat 8 f.toNat) l.toNat s.rd.buf.flatten) := by
  obtain ⟨-, -, -, -, hl0, hl1, -⟩ := h
  rw [← low8_eq_ofNat, ← toNat_low24_of_inRange hl0 hl1]
  exact parsePayload_endsAs _ _ _ _

/-- The stream fault of the model is the one of the statements. -/
theorem State.streamFaulted_streamFault {s : State} {rd : Rd} {k : Nat} (h : s.rd.Consumed rd k) (c : Cause) :
    StreamFaulted s c k (s.streamFault rd c) := by
  let t := s.streamFault rd c
  refine ⟨t.flags, t.len, t.sid, t.pad, t.prio, t.hblk, t.hlen, rd.buf, t.draws, h.avail, ?_⟩
  rw [← s.raise_eq_faulted, h.eq_update]
  rfl

/-- Where the parse faults, so does DECODE, with the bytes consumed until then. -/
theorem exec_decode_streamFaulted {s : State} {f l i : Word} {c : Cause} {rd : Rd} {k : Nat} (hs : DecodeStarts s f l i)
    (hc : s.rd.Consumed rd k)
    (hparse : parsePayload (Config.sliceSizes s.draws) (low8 f) (low24 l).toNat s.rd = .fault c rd) :
    ∃ t, exec (.decode f l i) s = .next t ∧ StreamFaulted s c k t := by
  refine ⟨_, ?_, State.streamFaulted_streamFault hc c⟩
  rw [exec_decode_of_starts hs, decodeBody, hparse]

/-- Settles O42: the parse faults there, whether the stream is open or closed. -/
theorem tooSmallALengthIsMalformedAtOnce : Obligations.TooSmallALengthIsMalformedAtOnce := by
  intro s f l i sub k hs hend
  have hparse := parsePayload_endsAs_of_starts hs
  rw [hend] at hparse
  obtain ⟨rd, hc, hfault⟩ := hparse
  exact exec_decode_streamFaulted hs hc hfault

/-- Settles O43: the bytes are missing to a read, and on a closed stream that read faults. -/
theorem aClosedShortStreamIsTruncatedInput : Obligations.AClosedShortStreamIsTruncatedInput := by
  intro s f l i sub k hs hclosed hend
  have hparse := parsePayload_endsAs_of_starts hs
  rw [hend] at hparse
  obtain ⟨rd, hc, hmissing⟩ := hparse
  rw [Parse.missing, if_pos (hc.closed.trans hclosed)] at hmissing
  exact exec_decode_streamFaulted hs hc hmissing

/-! ### The end of a hold (60_exceptions R232) -/

/-- No read wants more bytes than the declared length. -/
theorem ending_ne_missing {f : Byte} {L : Nat} {A : List Byte} (h : L ≤ A.length) (sub : TruncatedSub) (k : Nat) :
    ending f L A ≠ .missing sub k := by
  intro hend
  unfold ending at hend
  extract_lets a q p at hend
  clear_value a q p
  split_ifs at hend with hpadLength hpadByte hblock hword hweight <;> cases hend
  · exact hpadLength (hpadByte.imp_right fun _ => by omega)
  · exact hblock (hword.imp_right fun _ => by omega)
  · exact hblock (hweight.imp_right fun _ => by omega)
  · omega
  · omega

/-- With the declared bytes available the parse does not hold. -/
theorem parsePayload_ne_hold_of_le (sizes : List Nat) (f : Byte) {L : Nat} {rd : Rd} (h : L ≤ rd.avail.length) :
    parsePayload sizes f L rd ≠ .hold := by
  have hends := parsePayload_endsAs sizes f L rd
  cases he : ending f L rd.avail with
  | malformed sub k =>
    rw [he] at hends
    obtain ⟨_, -, hfault⟩ := hends
    simp [hfault]
  | missing sub k => exact absurd he (ending_ne_missing h sub k)
  | complete =>
    rw [he] at hends
    obtain ⟨_, _, hdone⟩ := hends
    simp [hdone]

/-- On a closed stream the parse does not hold. -/
theorem parsePayload_ne_hold_of_closed (sizes : List Nat) (f : Byte) (L : Nat) {rd : Rd} (h : rd.closed = true) :
    parsePayload sizes f L rd ≠ .hold :=
  fun hhold => nomatch h.symm.trans (parsePayload_hold_open hhold)

/-- A DECODE whose parse does not hold ends with a response, and makes no command pending. -/
theorem exec_decode_responds {s : State} {f l i : Word} (hn : s.held = none)
    (hparse : parsePayload (Config.sliceSizes s.draws) (low8 f) (low24 l).toNat s.rd ≠ .hold) :
    ∃ t, exec (.decode f l i) s = .next t ∧ t.held = none ∧ t.resp ≠ none := by
  obtain ⟨t, ht, he⟩ := exec_effect (i := .decode f l i) rfl s
  refine ⟨t, ht, ?_⟩
  cases he with
  | decodeHold _ _ hhold => exact absurd hhold hparse
  | _ => exact ⟨hn, by simp⟩

/-- Settles O8: the pending DECODE is evaluated again on the stream as the move left it, on which its parse does not hold. -/
theorem closeOrEnoughBytesEndTheHold : Obligations.CloseOrEnoughBytesEndTheHold := by
  intro s h rest hh ⟨_, _, _, _, hl0, hl1, _⟩
  obtain ⟨happend, hclose⟩ := pendingDecodeIsEvaluatedAgainAfterTheStreamMoves s h rest hh
  refine ⟨fun hin ho => ?_, fun c hin hc ho hlen => ?_⟩
  · rw [hclose hin ho]
    exact exec_decode_responds rfl (parsePayload_ne_hold_of_closed _ _ _ rfl)
  · rw [happend c hin hc ho]
    refine exec_decode_responds rfl (parsePayload_ne_hold_of_le _ _ ?_)
    simpa [toNat_low24_of_inRange hl0 hl1, Rd.avail] using hlen

end Sys2Proof.Machine
end

section
/-! RESET and the hazards of the port (70_reset_and_hazards R260, R261, R266): a command that arrives while a DECODE is pending
is no step, RESET is one in every state, and nothing but RESET clears the poison of the reader. -/
namespace Sys2Proof.Machine
open Sys2Proof.Claims

/-! ### A command while one is pending (70_reset_and_hazards R266) -/

/-- The opcode map has no row for a wire row (30_encoding R121). -/
theorem isWire_of_mem_opcodeMap {r : OpRow} (h : r ∈ opcodeMap) (a0 a1 a2 : Word) (blk : List Slice) :
    (r.build a0 a1 a2 blk).isWire = false := by
  have hrows : ∀ r ∈ opcodeMap, (r.build a0 a1 a2 blk).isWire = false := by
    simp [opcodeMap, Instr.isWire]
  exact hrows r h

theorem isWire_of_decodeCommand {w : CmdWord} {blk : List Slice} {i : Instr} (h : decodeCommand w blk = .ok i) :
    i.isWire = false := by
  unfold decodeCommand at h
  split at h
  · next r hfind =>
    cases h
    exact isWire_of_mem_opcodeMap (List.mem_of_find?_eq_some hfind) _ _ _ _
  · cases h

/-- What is the host's, an illegal opcode included, is refused while a DECODE is pending. -/
theorem issue_host_of_held {r : Raw} {s : State} (hr : ∀ f, decode r ≠ .error (.noLayout f))
    (hw : ∀ i, decode r = .ok i → i.isWire = false) (hh : s.held ≠ none) :
    issue r s = .refused .commandWhilePending := by
  have hsome := Option.isSome_iff_ne_none.2 hh
  cases hd : decode r with
  | ok i => simp [issue, hd, hw i hd, hsome]
  | error e =>
    cases e with
    | illegalCmd op => simp [issue, hd, hsome]
    | noLayout f => exact absurd hd (hr f)

/-- Settles O9: a command word is never a wire row and never a payload without a layout, so it is the host's. -/
theorem commandWhileOneIsPendingHasNoStep : Obligations.CommandWhileOneIsPendingHasNoStep := by
  intro s op a0 a1 a2 blk rest _ hh hin
  rw [step_of_inputs hin]
  exact issue_host_of_held (decodeCommand_ne_noLayout _ blk) (fun _ => isWire_of_decodeCommand) hh

/-! ### RESET (70_reset_and_hazards R260) -/

theorem State.asAfterReset_resetInput (s : State) : AsAfterReset s.resetInput := by
  simp [AsAfterReset, State.typeTag]

/-- Settles O10: the step is `State.resetInput`, which looks at no register of the state it is taken in. -/
theorem resetInputSetsEveryPieceOfState : Obligations.ResetInputSetsEveryPieceOfState :=
  fun _ _ hin => ⟨_, step_reset hin, State.asAfterReset_resetInput _, rfl, rfl, fun _ _ => rfl⟩

/-! ### The poison of the reader (70_reset_and_hazards R261) -/

/-- A stream fault sets the poison, a DECODE that is done reads on from the reader it found, and no other instruction touches
the input stream. -/
theorem CommandEffect.keeps_poisoned {i : Instr} {s t : State} (he : CommandEffect i s t) (h : s.rd.poisoned = true) :
    t.rd.poisoned = true := by
  cases he with
  | decodeFault => rfl
  | decodeDone _ _ hh =>
    obtain ⟨_, hconsumed⟩ := parsePayload_done_consumed hh
    exact hconsumed.poisoned.trans h
  | _ => exact h

theorem keptByMoves_poisoned : KeptByMoves fun u => u.rd.poisoned = true where
  arrival _ hs := hs
  effect _ he hs := he.keeps_poisoned hs
  illegal _ hs := hs
  append c hs := (Rd.poisoned_append _ c).trans hs
  close hs := hs
  drain _ hs := hs

/-- Settles O17: every move but RESET keeps the poison, and DECODE looks at it right after the phase. -/
theorem poisonedReaderStaysPoisonedUntilReset : Obligations.PoisonedReaderStaysPoisonedUntilReset := by
  obtain ⟨-, -, hdecode, -⟩ := decodeChecksPhasePoisonAndOperandsFirst
  exact ⟨fun s t h hreset hs => keptByMoves_poisoned.step (fun ⟨rest, hr⟩ => absurd hr (hreset rest)) hs h, hdecode⟩

end Sys2Proof.Machine
end
